-- ==== Sys2Proof/Word.lean ====
section
/-! DEFINITION. The word types of the core (spec/00_scope.md R7, R8): bytes, 32-bit words, lane
numbers, 16-byte sequences and the 44-word schedule. -/

namespace Sys2Proof

/-- A byte: 8 bits, unsigned (R7). -/
abbrev Byte := BitVec 8

/-- A word: 32 bits, bit 31 most significant (R7). Command, response and schedule words. -/
abbrev Word := BitVec 32

/-- A lane number as the `lane` field of a command carries it (R106): 8 bits. -/
abbrev LaneNo := BitVec 8

/-- A 16-byte value `B[0..15]`: a key, a block, a round key, a state (R8). -/
abbrev Block := Vector Byte 16

/-- The schedule `W[0..43]`: forty-four words (R23). -/
abbrev Schedule := Vector Word 44

end Sys2Proof
end

