-- ==== Sys2Proof/Machine/Gf.lean ====
section
/-! DEFINITION. Arithmetic in GF(2^8) (spec/40_gf_arithmetic.md R140 to R143). Addition is `^^^`. -/

namespace Sys2Proof.Machine

/-- `xtime(a)`: multiplication by x, reduced with 0x1B when bit 7 was set (R141). -/
def xtime (a : Byte) : Byte := if a.msb then (a <<< 1) ^^^ 0x1B#8 else a <<< 1

/-- The loop of `gmul` with `n` iterations left: accumulator `p`, multiplicand `a`, multiplier `b` (R142). -/
def gmulLoop : Nat → Byte → Byte → Byte → Byte
  | 0, p, _, _ => p
  | n + 1, p, a, b => gmulLoop n (if b.getLsbD 0 then p ^^^ a else p) (xtime a) (b >>> 1)

/-- `gmul(a,b)`: the product in GF(2^8), by eight iterations, always all eight (R142). -/
def gmul (a b : Byte) : Byte := gmulLoop 8 0#8 a b

/-- The multiplier 0x02 as logic (R143). -/
def mul2 (a : Byte) : Byte := xtime a

/-- The multiplier 0x03 as logic (R143). -/
def mul3 (a : Byte) : Byte := xtime a ^^^ a

end Sys2Proof.Machine
end

