-- ==== Sys2Proof/Machine/Operands.lean ====
section
/-! DEFINITION. Operand forms: how bytes and words are packed and taken apart (spec/00_scope.md R9,
spec/20_memory.md R71), indexed reads and writes of the schedule and of the byte buffers
(spec/20_memory.md R60, R61), and the counters' arithmetic (spec/40_gf_arithmetic.md R144). -/

namespace Sys2Proof.Machine

/-- `word(b0,b1,b2,b3) = b0 ## b1 ## b2 ## b3`: byte `b0` is bits 31:24 (R9). -/
def packWord (b0 b1 b2 b3 : Byte) : Word := b0 ++ b1 ++ b2 ++ b3

/-- `byte(w,k) = w[31-8k : 24-8k]` for `k` in 0..3 (R9). Every caller passes `k` in 0..3. -/
def byteOf (w : Word) (k : Nat) : Byte := w.extractLsb' (24 - 8 * k) 8

/-- `W[i]` for a word index `i` in 0..43 (R60). Every caller passes such an index (R144);
the value for any other index is never used (log entry 15). -/
def wordAt (w : Schedule) (i : Nat) : Word := w[i]?.getD 0#32

/-- `W[i] <- v` for a word index `i` in 0..43 (R60); an index outside writes nothing (log entry 15). -/
def setWord (w : Schedule) (i : Nat) (v : Word) : Schedule := w.setIfInBounds i v

/-- Byte `j` of round key `k`: `RK_k[j] = byte(W[4k + j/4], j mod 4)` (R71). -/
def roundKeyByte (w : Schedule) (k j : Nat) : Byte := byteOf (wordAt w (4 * k + j / 4)) (j % 4)

/-- Key word `i` of a 16-byte key: `word(K[4i], K[4i+1], K[4i+2], K[4i+3])` (R71). -/
def keyWord (k : Block) (i : Fin 4) : Word :=
  packWord k[4 * i.val] k[4 * i.val + 1] k[4 * i.val + 2] k[4 * i.val + 3]

/-- `W[0..3]` become the four key words; the other words keep their values (R172). -/
def loadKeyWords (k : Block) (w : Schedule) : Schedule :=
  setWord (setWord (setWord (setWord w 0 (keyWord k 0)) 1 (keyWord k 1)) 2 (keyWord k 2)) 3 (keyWord k 3)

/-- A buffer of sixteen zero bytes. -/
def zeroBlock : Block := Vector.replicate 16 0#8

/-- A schedule of forty-four zero words. -/
def zeroSchedule : Schedule := Vector.replicate 44 0#32

/-- A push at the index the core keeps: the byte is stored while the count is below 16, and dropped
from then on (R21, R35, R61). -/
def pushByte (buf : Block) (count : BitVec 5) (b : Byte) : Block :=
  if h : count.toNat < 16 then buf.set count.toNat b h else buf

/-- `sat_inc(c) = if c = 31 then 31 else c + 1` (R144). -/
def satInc (c : BitVec 5) : BitVec 5 := if c = 31#5 then 31#5 else c + 1#5

end Sys2Proof.Machine
end

