-- ==== Sys2Proof/Config.lean ====
section
/-! DEFINITION. What is fixed for one built core and never changes as it runs (spec/00_scope.md R6,
spec/10_state.md R53): the number of lanes and the ROM contents. State carries it as plain data, so a
statement over every state is a statement over every configuration (log entry 6). The one free value of the model,
the interleaving of the agents, also stands here. -/

namespace Sys2Proof

/-- The arguments of the model (R6): the number of lanes `N_DP` and the ROMs as built. -/
structure Config where
  /-- `N_DP`, legal from 1 to 256 (R6). -/
  nDp : Nat
  /-- `SBOX_ROM` and `RCON_ROM` (R6). -/
  roms : Machine.Roms
  deriving DecidableEq, Repr

/-- What R6 gives when nothing is given: one lane. The ROMs hold the fixed values of R66 and R67. -/
def Config.default : Config := { nDp := 1, roms := Machine.fixedRoms }

/-- The legal configurations: `1 <= N_DP <= 256`, any ROM contents (R6, R68). -/
def Config.legal (c : Config) : Bool := decide (1 ≤ c.nDp ∧ c.nDp ≤ 256)

/-- FREE VALUE (log entry 4). Which of the enabled agents steps next when the state's `schedule` does
not say: spec/00_scope.md R12 and spec/93_implementation_defined.md U16 leave the interleaving open.
No body, so nothing can be proved of its values. -/
opaque Config.freeChoice : Nat → Nat

end Sys2Proof
end

