-- ==== Sys2Proof/Syntax.lean ====
section
/-! DEFINITION. The syntax: one constructor per row of spec/opcode_table.json, ten commands
(spec/30_encoding.md R104) and nine micro-operations (R120). -/

namespace Sys2Proof

/-- The commands and the micro-operations. `d` is a lane, `b` the data byte, `r` the value of `KIDX`,
`n` the value of `RND`. -/
inductive Instr where
  /-- NOP (R250). -/
  | nop
  /-- KEYCLR (R170). -/
  | keyclr
  /-- KEYPUSH b (R171). -/
  | keypush (b : Byte)
  /-- EXPAND (R172). -/
  | expand
  /-- KSTAT (R251). -/
  | kstat
  /-- DINCLR d (R210). -/
  | dinclr (d : LaneNo)
  /-- DINPUSH d, b (R211). -/
  | dinpush (d : LaneNo) (b : Byte)
  /-- ENCRYPT d (R212). -/
  | encrypt (d : LaneNo)
  /-- DOUTPOP d (R213). -/
  | doutpop (d : LaneNo)
  /-- DSTAT d (R252). -/
  | dstat (d : LaneNo)
  /-- KLD at KIDX = r (R173). -/
  | kld (r : BitVec 6)
  /-- KROT at KIDX = r (R174). -/
  | krot (r : BitVec 6)
  /-- KSUB at KIDX = r (R175). -/
  | ksub (r : BitVec 6)
  /-- KRC at KIDX = r (R177). -/
  | krc (r : BitVec 6)
  /-- KST at KIDX = r (R176). -/
  | kst (r : BitVec 6)
  /-- SB of lane d at RND = n (R221). -/
  | sb (d : LaneNo) (n : BitVec 4)
  /-- SR of lane d at RND = n (R222). -/
  | sr (d : LaneNo) (n : BitVec 4)
  /-- MC of lane d at RND = n (R223). -/
  | mc (d : LaneNo) (n : BitVec 4)
  /-- ARK of lane d at RND = n (R220). -/
  | ark (d : LaneNo) (n : BitVec 4)
  deriving DecidableEq, Repr

end Sys2Proof
end

