-- ==== Sys2Proof/WellFormed.lean ====
section
/-! DEFINITION. Well-formed instructions: the legal field values of spec/30_encoding.md R106 (the lane
of a lane command) and R120 (KIDX and RND of a micro-operation). -/

namespace Sys2Proof

/-- A lane number names a lane of this core: `d < N_DP` (R106). -/
def laneLegal (nDp : Nat) (d : LaneNo) : Bool := decide (d.toNat < nDp)

/-- KIDX of KLD and KST: 4..43 (R120). -/
def kidxLegal (r : BitVec 6) : Bool := decide (4 ≤ r.toNat ∧ r.toNat ≤ 43)

/-- KIDX of KROT, KSUB and KRC: 4, 8, .., 40 (R120). -/
def kidxRoundLegal (r : BitVec 6) : Bool := decide (4 ≤ r.toNat ∧ r.toNat ≤ 40 ∧ r.toNat % 4 = 0)

/-- RND of SB and SR: 1..10 (R120). -/
def rndLegal (n : BitVec 4) : Bool := decide (1 ≤ n.toNat ∧ n.toNat ≤ 10)

/-- RND of MC: 1..9 (R120). -/
def rndMixLegal (n : BitVec 4) : Bool := decide (1 ≤ n.toNat ∧ n.toNat ≤ 9)

/-- RND of ARK: 0..10 (R120). -/
def rndKeyLegal (n : BitVec 4) : Bool := decide (n.toNat ≤ 10)

/-- The instruction exists on a core with `nDp` lanes, every field at a legal value. -/
def wellFormed (nDp : Nat) : Instr → Bool
  | .nop => true
  | .keyclr => true
  | .keypush _ => true
  | .expand => true
  | .kstat => true
  | .dinclr d => laneLegal nDp d
  | .dinpush d _ => laneLegal nDp d
  | .encrypt d => laneLegal nDp d
  | .doutpop d => laneLegal nDp d
  | .dstat d => laneLegal nDp d
  | .kld r => kidxLegal r
  | .krot r => kidxRoundLegal r
  | .ksub r => kidxRoundLegal r
  | .krc r => kidxRoundLegal r
  | .kst r => kidxLegal r
  | .sb d n => laneLegal nDp d && rndLegal n
  | .sr d n => laneLegal nDp d && rndLegal n
  | .mc d n => laneLegal nDp d && rndMixLegal n
  | .ark d n => laneLegal nDp d && rndKeyLegal n

end Sys2Proof
end

