-- ==== Sys2Proof/Decode.lean ====
section
/-! DEFINITION. Decoding and encoding (spec/30_encoding.md). A command is selected by a 32-bit word
(R101 to R111), a micro-operation by the value of its unit's sequencer counter (R120). Decoding is
total and rejects by name; the encoder is written from the same tables. -/

namespace Sys2Proof

/-- What selects an instruction: a command word on the channel (R100), the 9-bit value
`KIDX ## KPH` of the KSE, or the 6-bit value `RND ## PH` of lane `d` (R120). -/
inductive Code where
  | command (w : Word)
  | kpc (v : BitVec 9)
  | dpc (d : LaneNo) (v : BitVec 6)
  deriving DecidableEq, Repr

/-- Why a code selects nothing: steps 1 to 5 of R110 for a word, R120 for a sequencer value. -/
inductive DecodeError where
  /-- R110 step 1: `cmd[15:8]` is not zero. -/
  | mbzNotZero
  /-- R110 step 2: no command has this `op`. -/
  | noSuchOp
  /-- R110 step 3: the format fixes `lane` to zero and it is not. -/
  | laneNotZero
  /-- R110 step 4: the format fixes `imm8` to zero and it is not. -/
  | immNotZero
  /-- R110 step 5: `lane >= N_DP`. -/
  | laneAbsent
  /-- R120: a sequencer value outside the legal columns (the idle code among them). -/
  | noMicroOp
  deriving DecidableEq, Repr

/-- The outcome of decoding: an instruction, or a rejection by name. -/
inductive Decoded where
  | instr (i : Instr)
  | illegal (why : DecodeError)
  deriving DecidableEq, Repr

/-- The instruction, where there is one. -/
def Decoded.toOption : Decoded → Option Instr
  | .instr i => some i
  | .illegal _ => none

/-- The four formats (R102). -/
inductive Format where
  | n | b | l | lb
  deriving DecidableEq, Repr

/-- The format fixes `lane` to 0x00 (R102: N and B). -/
def Format.noLane : Format → Bool
  | .n => true
  | .b => true
  | .l => false
  | .lb => false

/-- The format fixes `imm8` to 0x00 (R102: N and L). -/
def Format.noImm : Format → Bool
  | .n => true
  | .b => false
  | .l => true
  | .lb => false

/-- `op = cmd[31:24]` (R101). -/
def fieldOp (cmd : Word) : BitVec 8 := cmd.extractLsb' 24 8

/-- `lane = cmd[23:16]` (R101). -/
def fieldLane (cmd : Word) : LaneNo := cmd.extractLsb' 16 8

/-- `mbz = cmd[15:8]` (R101). -/
def fieldMbz (cmd : Word) : BitVec 8 := cmd.extractLsb' 8 8

/-- `imm8 = cmd[7:0]` (R101). -/
def fieldImm (cmd : Word) : Byte := cmd.extractLsb' 0 8

/-- The row of R104 for an `op`: its format, and the command with the word's lane and byte. -/
def commandOf (op : BitVec 8) (d : LaneNo) (b : Byte) : Option (Format × Instr) :=
  if op = 0x00#8 then some (.n, .nop)
  else if op = 0x01#8 then some (.n, .keyclr)
  else if op = 0x02#8 then some (.b, .keypush b)
  else if op = 0x03#8 then some (.n, .expand)
  else if op = 0x04#8 then some (.n, .kstat)
  else if op = 0x10#8 then some (.l, .dinclr d)
  else if op = 0x11#8 then some (.lb, .dinpush d b)
  else if op = 0x12#8 then some (.l, .encrypt d)
  else if op = 0x13#8 then some (.l, .doutpop d)
  else if op = 0x14#8 then some (.l, .dstat d)
  else none

/-- Decoding of a command word, in the order of R110. -/
def decodeCommand (nDp : Nat) (cmd : Word) : Decoded :=
  if fieldMbz cmd ≠ 0#8 then .illegal .mbzNotZero
  else match commandOf (fieldOp cmd) (fieldLane cmd) (fieldImm cmd) with
    | none => .illegal .noSuchOp
    | some (f, i) =>
      if f.noLane && fieldLane cmd != 0#8 then .illegal .laneNotZero
      else if f.noImm && fieldImm cmd != 0#8 then .illegal .immNotZero
      else if !f.noLane && !laneLegal nDp (fieldLane cmd) then .illegal .laneAbsent
      else .instr i

/-- The instruction if the field value is legal, else the rejection of R120. -/
def microIf (legal : Bool) (i : Instr) : Decoded := if legal then .instr i else .illegal .noMicroOp

/-- Decoding of the KSE's sequencer value `KIDX[5:0] ## KPH[2:0]` (R120). -/
def decodeKpc (v : BitVec 9) : Decoded :=
  let r : BitVec 6 := v.extractLsb' 3 6
  let ph : BitVec 3 := v.extractLsb' 0 3
  if ph = 0#3 then microIf (kidxLegal r) (.kld r)
  else if ph = 1#3 then microIf (kidxRoundLegal r) (.krot r)
  else if ph = 2#3 then microIf (kidxRoundLegal r) (.ksub r)
  else if ph = 3#3 then microIf (kidxRoundLegal r) (.krc r)
  else if ph = 4#3 then microIf (kidxLegal r) (.kst r)
  else .illegal .noMicroOp

/-- Decoding of lane `d`'s sequencer value `RND[3:0] ## PH[1:0]` (R120). -/
def decodeDpc (d : LaneNo) (v : BitVec 6) : Decoded :=
  let n : BitVec 4 := v.extractLsb' 2 4
  let ph : BitVec 2 := v.extractLsb' 0 2
  if ph = 0#2 then microIf (rndLegal n) (.sb d n)
  else if ph = 1#2 then microIf (rndLegal n) (.sr d n)
  else if ph = 2#2 then microIf (rndMixLegal n) (.mc d n)
  else microIf (rndKeyLegal n) (.ark d n)

/-- Decoding of any code on a core with `nDp` lanes. It never looks at the state (R110). -/
def decode (nDp : Nat) : Code → Decoded
  | .command w => decodeCommand nDp w
  | .kpc v => decodeKpc v
  | .dpc d v => if laneLegal nDp d then decodeDpc d v else .illegal .laneAbsent

/-- A command word from its fields (R101); `mbz` is 0x00. -/
def commandWord (op : BitVec 8) (d : LaneNo) (b : Byte) : Word := op ++ d ++ (0x00#8) ++ b

/-- `KIDX[5:0] ## KPH[2:0]` (R120). -/
def kpcBits (r : BitVec 6) (ph : BitVec 3) : BitVec 9 := r ++ ph

/-- `RND[3:0] ## PH[1:0]` (R120). -/
def dpcBits (n : BitVec 4) (ph : BitVec 2) : BitVec 6 := n ++ ph

/-- The encoder, from R104 and R120. -/
def encode : Instr → Code
  | .nop => .command (commandWord 0x00#8 0#8 0#8)
  | .keyclr => .command (commandWord 0x01#8 0#8 0#8)
  | .keypush b => .command (commandWord 0x02#8 0#8 b)
  | .expand => .command (commandWord 0x03#8 0#8 0#8)
  | .kstat => .command (commandWord 0x04#8 0#8 0#8)
  | .dinclr d => .command (commandWord 0x10#8 d 0#8)
  | .dinpush d b => .command (commandWord 0x11#8 d b)
  | .encrypt d => .command (commandWord 0x12#8 d 0#8)
  | .doutpop d => .command (commandWord 0x13#8 d 0#8)
  | .dstat d => .command (commandWord 0x14#8 d 0#8)
  | .kld r => .kpc (kpcBits r 0#3)
  | .krot r => .kpc (kpcBits r 1#3)
  | .ksub r => .kpc (kpcBits r 2#3)
  | .krc r => .kpc (kpcBits r 3#3)
  | .kst r => .kpc (kpcBits r 4#3)
  | .sb d n => .dpc d (dpcBits n 0#2)
  | .sr d n => .dpc d (dpcBits n 1#2)
  | .mc d n => .dpc d (dpcBits n 2#2)
  | .ark d n => .dpc d (dpcBits n 3#2)

/-- One row of the command table of R104: the word is the command when `(cmd and mask) = match`. -/
structure CommandRow where
  mnemonic : String
  format : Format
  matchBits : Word
  mask : Word
  deriving DecidableEq, Repr

/-- The ten rows of R104, in its order. -/
def commandTable : List CommandRow :=
  [ ⟨"NOP", .n, 0x00000000, 0xFFFFFFFF⟩, ⟨"KEYCLR", .n, 0x01000000, 0xFFFFFFFF⟩,
    ⟨"KEYPUSH", .b, 0x02000000, 0xFFFFFF00⟩, ⟨"EXPAND", .n, 0x03000000, 0xFFFFFFFF⟩,
    ⟨"KSTAT", .n, 0x04000000, 0xFFFFFFFF⟩, ⟨"DINCLR", .l, 0x10000000, 0xFF00FFFF⟩,
    ⟨"DINPUSH", .lb, 0x11000000, 0xFF00FF00⟩, ⟨"ENCRYPT", .l, 0x12000000, 0xFF00FFFF⟩,
    ⟨"DOUTPOP", .l, 0x13000000, 0xFF00FFFF⟩, ⟨"DSTAT", .l, 0x14000000, 0xFF00FFFF⟩ ]

/-- `(cmd and mask) = match` (R104). -/
def CommandRow.matches (row : CommandRow) (cmd : Word) : Bool := cmd &&& row.mask == row.matchBits

/-- The code that spec/opcode_table.json's `nbits` bits `w` stand for: a row of 32 bits is a command
word, a row of 9 bits (two bytes) a KSE sequencer value, a row of 6 bits (one byte) a lane sequencer
value, here lane 0's. A value wider than the row's width is no code. -/
def codeOfTableWord (nbits w : Nat) : Option Code :=
  if nbits ≤ 8 then (if w < 2 ^ 6 then some (.dpc 0#8 (BitVec.ofNat 6 w)) else none)
  else if nbits ≤ 16 then (if w < 2 ^ 9 then some (.kpc (BitVec.ofNat 9 w)) else none)
  else if w < 2 ^ 32 then some (.command (BitVec.ofNat 32 w))
  else none

/-- The instruction the decoder reads from a table row's bits, on a core with the default number of
lanes (log entry 5). -/
def decodeTableWord (nbits w : Nat) : Option Instr :=
  match codeOfTableWord nbits w with
  | some c => (decode Config.default.nDp c).toOption
  | none => none

end Sys2Proof
end

