-- ==== Sys2Proof/Machine/CipherFunctions.lean ====
section
/-! DEFINITION. BlockTransform as pure functions (spec/42_block_transform.md section 1, R201 to R204,
R225, R227). All reads use the old state. -/

namespace Sys2Proof.Machine

/-- `AddRoundKey(S, W, k)` (R201). -/
def addRoundKey (s : Block) (w : Schedule) (k : Nat) : Block :=
  Vector.ofFn fun j : Fin 16 => s[j] ^^^ roundKeyByte w k j.val

/-- `SubBytes(S)` (R202). -/
def subBytes (r : Roms) (s : Block) : Block := Vector.ofFn fun j : Fin 16 => r.sboxAt s[j]

/-- Where ShiftRows takes byte `j` from: row `j mod 4`, column `(j / 4 + j mod 4) mod 4` (R10, R203). -/
def shiftSource (j : Fin 16) : Fin 16 := ⟨j.val % 4 + 4 * ((j.val / 4 + j.val % 4) % 4), by omega⟩

/-- `ShiftRows(S)` (R203). -/
def shiftRows (s : Block) : Block := Vector.ofFn fun j : Fin 16 => s[shiftSource j]

/-- Row `row` of the MixColumns matrix times the column `a0..a3` (R204). -/
def mixRow (a0 a1 a2 a3 : Byte) (row : Nat) : Byte :=
  match row with
  | 0 => gmul 0x02#8 a0 ^^^ gmul 0x03#8 a1 ^^^ a2 ^^^ a3
  | 1 => a0 ^^^ gmul 0x02#8 a1 ^^^ gmul 0x03#8 a2 ^^^ a3
  | 2 => a0 ^^^ a1 ^^^ gmul 0x02#8 a2 ^^^ gmul 0x03#8 a3
  | _ => gmul 0x03#8 a0 ^^^ a1 ^^^ a2 ^^^ gmul 0x02#8 a3

/-- `MixColumns(S)`: each column by the fixed matrix, the column a vector on its right (R204). -/
def mixColumns (s : Block) : Block :=
  Vector.ofFn fun j : Fin 16 =>
    mixRow (s[4 * (j.val / 4)]'(by omega)) (s[4 * (j.val / 4) + 1]'(by omega))
      (s[4 * (j.val / 4) + 2]'(by omega)) (s[4 * (j.val / 4) + 3]'(by omega)) (j.val % 4)

/-- The state after the initial AddRoundKey and the first `n` full rounds (R225 steps 1 and 2). -/
def cipherRounds (r : Roms) (p : Block) (w : Schedule) : Nat → Block
  | 0 => addRoundKey p w 0
  | n + 1 => addRoundKey (mixColumns (shiftRows (subBytes r (cipherRounds r p w n)))) w (n + 1)

/-- `Cipher(P, W)`: the final round leaves MixColumns out (R225). -/
def cipher (r : Roms) (p : Block) (w : Schedule) : Block :=
  addRoundKey (shiftRows (subBytes r (cipherRounds r p w 9))) w 10

end Sys2Proof.Machine
end

