-- ==== Sys2Proof/Machine/State.lean ====
section
/-! DEFINITION. The state of the core (spec/10_state.md R20 to R53) as plain data, the configuration it
was built with (R53), and the model's own fields for what stands outside the core: the host's actions,
the responses it got, and the interleaving (log entries 1 to 4). -/

namespace Sys2Proof.Machine

/-- `KPC = (KIDX, KPH)`, the sequencer counter of the KSE (R31). Idle value (0, 0). -/
structure Kpc where
  kidx : BitVec 6
  kph  : BitVec 3
  deriving DecidableEq, Repr

/-- `DPC[d] = (RND, PH)`, the sequencer counter of a lane (R41). Idle value (0, 0). -/
structure Dpc where
  rnd : BitVec 4
  ph  : BitVec 2
  deriving DecidableEq, Repr

/-- The state of one lane (R35 to R41). -/
structure Lane where
  /-- `DIN[d][0..15]`, the plaintext block as pushed (R35). -/
  din : Block
  /-- `DINCNT[d]`, how many bytes were pushed, saturating at 31 (R36). -/
  dincnt : BitVec 5
  /-- `S[d][0..15]`, the State (R37). -/
  s : Block
  /-- `DOUT[d][0..15]`, the ciphertext block (R38). -/
  dout : Block
  /-- `DOUTVALID[d]` (R39). -/
  doutvalid : Bool
  /-- `DOUTRD[d]`, the next byte to pop (R39). -/
  doutrd : BitVec 5
  /-- `DBUSY[d]` (R40). -/
  dbusy : Bool
  /-- `DPC[d]` (R41). -/
  dpc : Dpc
  deriving DecidableEq, Repr

/-- A lane at reset: every item zero (R20, R52). -/
def Lane.reset : Lane :=
  { din := Vector.replicate 16 0#8, dincnt := 0#5, s := Vector.replicate 16 0#8, dout := Vector.replicate 16 0#8,
    doutvalid := false, doutrd := 0#5, dbusy := false, dpc := ⟨0#4, 0#2⟩ }

/-- What the host does next (R330): issue a 32-bit word, or apply the hardware reset. -/
inductive HostAction where
  | command (w : Word)
  | reset
  deriving DecidableEq, Repr

/-- What can take a step (R12): the host, the KSE, a lane. -/
inductive Agent where
  | host
  | kse
  | lane (d : LaneNo)
  deriving DecidableEq, Repr

/-- The whole state. Plain data; the core's own items are those of R20. -/
structure State where
  /-- `SBOX_ROM` and `RCON_ROM`: configuration, changed by no step (R53, R68). -/
  roms : Roms
  /-- The lanes `DP[0] .. DP[N_DP-1]`; `N_DP` is the length, changed by no step (R20, R53). -/
  lanes : List Lane
  /-- `KEYBUF[0..15]`, the key (R21). -/
  keybuf : Block
  /-- `KEYCNT`, how many key bytes were pushed, saturating at 31 (R22). -/
  keycnt : BitVec 5
  /-- `W[0..43]`, the round-key schedule (R23). -/
  w : Schedule
  /-- `KVALID` (R24). -/
  kvalid : Bool
  /-- `KBUSY` (R25). -/
  kbusy : Bool
  /-- `FATAL` (R26). -/
  fatal : Bool
  /-- `TEMP` (R27). -/
  temp : Word
  /-- `KPC` (R31). -/
  kpc : Kpc
  /-- MODEL'S OWN (log entry 1): what the host will do, the action under way first. A held command
  stays at the head (R292). -/
  hostActions : List HostAction
  /-- MODEL'S OWN (log entry 2): the response words given so far, oldest first (R100). -/
  responses : List Word
  /-- MODEL'S OWN (log entry 3): the agents to step next, as far as the interleaving is laid down. -/
  schedule : List Agent
  /-- MODEL'S OWN (log entry 4): how many steps were taken; `Config.freeChoice` is applied to it. -/
  stepCount : Nat
  deriving DecidableEq, Repr

/-- `N_DP` of this core (R6). -/
def State.nDp (s : State) : Nat := s.lanes.length

/-- The configuration this core was built with (R53). -/
def State.config (s : State) : Config := { nDp := s.nDp, roms := s.roms }

/-- The core of configuration `c` right after reset (R52, R310): everything zero, both kinds of unit
idle, `FATAL = not TablesOK`; nothing issued, answered or laid down yet. -/
def State.resetWith (c : Config) : State :=
  { roms := c.roms, lanes := List.replicate c.nDp Lane.reset,
    keybuf := Vector.replicate 16 0#8, keycnt := 0#5, w := Vector.replicate 44 0#32,
    kvalid := false, kbusy := false, fatal := !tablesOk c.roms, temp := 0#32, kpc := ⟨0#6, 0#3⟩,
    hostActions := [], responses := [], schedule := [], stepCount := 0 }

/-- The machine right after reset, with the configuration R6 gives when nothing is given. -/
def State.reset : State := State.resetWith Config.default

/-- Why a step stops. From a state that satisfies the invariants of R51 the step of the machine raises none of
these. -/
inductive Fault where
  /-- Raised by `exec` of a micro-operation that its unit's sequencer does not select, the unit idle or
  at another value: R120 gives such an operation no step (log entry 9). Safe: the model stops, and no step of the
  machine runs an unselected micro-operation. -/
  | notSelected
  /-- Raised by `step` when no agent has an enabled step although a unit is busy: its sequencer holds a
  value that R31 or R41 cannot reach (spec/93_implementation_defined.md U10, U11: stuck; log entry 10). Safe: the
  model stops in a state no run reaches. -/
  | stuck
  /-- Raised by DOUTPOP when `DOUTRD[d]` is 16 or more with `DOUTVALID[d] = 1`, so that `DOUT[d]` has no
  such byte (U12: unreachable; log entry 11). Safe: the model stops in a state no run reaches. -/
  | noSuchByte
  deriving DecidableEq, Repr

/-- Why an instruction is refused. -/
inductive Refusal where
  /-- Raised by `exec` for an instruction without a meaning yet; none is left. Safe: the model stops. -/
  | notModelled (mnemonic : String)
  deriving DecidableEq, Repr

end Sys2Proof.Machine
end

