-- ==== Sys2Proof/Machine/Flags.lean ====
section
/-! DEFINITION. Result codes, response words and the two status words (spec/30_encoding.md R103, R105;
spec/10_state.md R45 to R47; spec/60_exceptions.md R281). -/

namespace Sys2Proof.Machine

/-- The seven result codes (R105); 0x07 to 0xFF are never returned. -/
inductive ResultCode where
  | ok | eKeylen | eBlklen | eFatal | eNosched | eNodata | eIllegal
  deriving DecidableEq, Repr

/-- The number of a result code (R105). -/
def ResultCode.bits : ResultCode → BitVec 8
  | .ok => 0x00#8
  | .eKeylen => 0x01#8
  | .eBlklen => 0x02#8
  | .eFatal => 0x03#8
  | .eNosched => 0x04#8
  | .eNodata => 0x05#8
  | .eIllegal => 0x06#8

/-- A response word: the code in bits 31:24, the payload in bits 23:0 (R103). -/
def responseWord (code : ResultCode) (payload : BitVec 24) : Word := code.bits ++ payload

/-- `code = rsp[31:24]` (R103). -/
def responseCode (rsp : Word) : BitVec 8 := rsp.extractLsb' 24 8

/-- A one-bit flag as a 24-bit number. -/
def flagBit (b : Bool) : BitVec 24 := (BitVec.ofBool b).zeroExtend 24

/-- The key status word KSTAT returns (R46, R251). -/
def keyStatus (s : State) : BitVec 24 :=
  (s.keycnt.zeroExtend 24 <<< 8) ||| (flagBit s.fatal <<< 2) ||| (flagBit s.kbusy <<< 1) ||| flagBit s.kvalid

/-- The lane status word DSTAT returns (R47, R252). -/
def laneStatus (s : State) (l : Lane) : BitVec 24 :=
  (l.doutrd.zeroExtend 24 <<< 16) ||| (l.dincnt.zeroExtend 24 <<< 8) ||| (flagBit s.fatal <<< 2) |||
    (flagBit l.dbusy <<< 1) ||| flagBit l.doutvalid

end Sys2Proof.Machine
end

