-- ==== Sys2Proof/Machine/KeyFunctions.lean ====
section
/-! DEFINITION. KeyExpansion as pure functions (spec/41_key_expansion.md section 1, R161 to R165). -/

namespace Sys2Proof.Machine

/-- `RotWord(t)`: the four bytes cyclically left-rotated by one position (R161). -/
def rotWord (t : Word) : Word := packWord (byteOf t 1) (byteOf t 2) (byteOf t 3) (byteOf t 0)

/-- `SubWord(t)`: the substitution table applied to each of the four bytes (R162). -/
def subWord (r : Roms) (t : Word) : Word :=
  packWord (r.sboxAt (byteOf t 0)) (r.sboxAt (byteOf t 1)) (r.sboxAt (byteOf t 2)) (r.sboxAt (byteOf t 3))

/-- `KeyG(t, i) = SubWord(RotWord(t)) xor RCON[i]` (R163). -/
def keyG (r : Roms) (t : Word) (i : Nat) : Word := subWord r (rotWord t) ^^^ r.rconAt i

/-- The word `W[i]` from the earlier ones, for `i` in 4..43 (R164). -/
def nextWord (r : Roms) (w : Schedule) (i : Nat) : Word :=
  wordAt w (i - 4) ^^^ (if i % 4 = 0 then keyG r (wordAt w (i - 1)) (i / 4) else wordAt w (i - 1))

/-- The schedule with the key words and the first `n` derived words, the rest zero (R164). -/
def expandWords (r : Roms) (k : Block) : Nat → Schedule
  | 0 => loadKeyWords k zeroSchedule
  | n + 1 => setWord (expandWords r k n) (n + 4) (nextWord r (expandWords r k n) (n + 4))

/-- `KeyExpansion(K)`: the forty-four words (R164). -/
def keyExpansion (r : Roms) (k : Block) : Schedule := expandWords r k 40

end Sys2Proof.Machine
end

