-- ==== Sys2Proof/Machine/Ops.lean ====
section
/-! DEFINITION. The named operations over the state that the meanings share: answering and failing
(spec/60_exceptions.md R280), holds (R292), lane access (R303), the effects on the key side and on a
lane, the sequencers' selection (spec/30_encoding.md R120) and advance (spec/10_state.md R31, R41), and
the hardware reset (spec/70_reset_and_hazards.md R310, R311). -/

namespace Sys2Proof.Machine

/-- What a step answers. -/
abbrev Result := Host.Outcome State Fault Refusal

/-! ## Answers and failures -/

/-- The command is answered with the response word `rsp` (R100). -/
def State.answer (s : State) (rsp : Word) : State := { s with responses := s.responses ++ [rsp] }

/-- `respond v`: success, payload `v` (R11, R103). -/
def respond (v : BitVec 24) (s : State) : State := s.answer (responseWord .ok v)

/-- `raise Code(info)`, the one shared way to fail: the response word is `Code ## info` and nothing
else changes; nothing is saved and control goes nowhere (R280). There is no return from it (R285). -/
def raise (code : ResultCode) (info : BitVec 24) (s : State) : State := s.answer (responseWord code info)

/-- Check 2 of R290: with `FATAL = 1` the command raises `E_FATAL(0)` (R273, R283). -/
def unlessFatal (s : State) (k : Result) : Result := if s.fatal then .next (raise .eFatal 0#24 s) else k

/-- `hold until c`: while `c` is false the command is not accepted; it changes nothing and gives no
response (R11, R292). -/
def holdUntil (c : Bool) (s : State) (k : Result) : Result := if c then k else .next s

/-! ## Lanes -/

/-- Lane `d`, where it exists. -/
def State.lane? (s : State) (d : LaneNo) : Option Lane := s.lanes[d.toNat]?

/-- Lane `d` becomes `l`; no other lane changes (R303). -/
def State.setLane (s : State) (d : LaneNo) (l : Lane) : State := { s with lanes := s.lanes.set d.toNat l }

/-- A lane command: `E_ILLEGAL(0)` when lane `d` does not exist (R110 step 5, R111, log entry 17). -/
def onLane (d : LaneNo) (s : State) (k : Lane → Result) : Result :=
  match s.lane? d with
  | some l => k l
  | none => .next (raise .eIllegal 0#24 s)

/-! ## Holds -/

/-- `DBUSY[d] = 0` for every lane `d`. -/
def State.lanesIdle (s : State) : Bool := s.lanes.all fun l => !l.dbusy

/-- `DBUSY[d] = 0`; a lane that does not exist is not busy. -/
def State.laneIdle (s : State) (d : LaneNo) : Bool :=
  match s.lane? d with
  | some l => !l.dbusy
  | none => true

/-- The hold table of R292: the condition under which the command is accepted. Micro-operations are
never held (R270). -/
def released (i : Instr) (s : State) : Bool :=
  match i with
  | .keyclr => !s.kbusy && s.lanesIdle
  | .keypush _ => !s.kbusy && s.lanesIdle
  | .expand => !s.kbusy && s.lanesIdle
  | .encrypt d => !s.kbusy && s.laneIdle d
  | .doutpop d => s.laneIdle d
  | .nop => true
  | .kstat => true
  | .dstat _ => true
  | .dinclr _ => true
  | .dinpush _ _ => true
  | .kld _ => true
  | .krot _ => true
  | .ksub _ => true
  | .krc _ => true
  | .kst _ => true
  | .sb _ _ => true
  | .sr _ _ => true
  | .mc _ _ => true
  | .ark _ _ => true

/-- The command waits: check 2 of R290 does not end it and the hold of check 3 is not released. -/
def waits (i : Instr) (s : State) : Bool := !s.fatal && !released i s

/-! ## Effects on the key side -/

/-- KEYCLR's effect (R170). -/
def State.clearKeySide (s : State) : State :=
  { s with keybuf := zeroBlock, keycnt := 0#5, w := zeroSchedule, temp := 0#32, kvalid := false }

/-- KEYPUSH's effect (R171). -/
def State.pushKey (s : State) (b : Byte) : State :=
  { s with keybuf := pushByte s.keybuf s.keycnt b, keycnt := satInc s.keycnt, kvalid := false }

/-- EXPAND's effect: the key words are loaded and the KSE starts at (4, KLD) (R172). -/
def State.beginExpansion (s : State) : State :=
  { s with w := loadKeyWords s.keybuf s.w, kpc := ⟨4#6, 0#3⟩, kbusy := true, kvalid := false }

/-- `TEMP <- t` and `KPC <- k` (R173 to R177). -/
def State.setTemp (s : State) (t : Word) (k : Kpc) : State := { s with temp := t, kpc := k }

/-- `W[i] <- v` and `KPC <- k` (R176, r < 43). -/
def State.storeWord (s : State) (i : Nat) (v : Word) (k : Kpc) : State :=
  { s with w := setWord s.w i v, kpc := k }

/-- `W[i] <- v` and the expansion ends (R176, r = 43). -/
def State.endExpansion (s : State) (i : Nat) (v : Word) : State :=
  { s with w := setWord s.w i v, kpc := ⟨0#6, 0#3⟩, temp := 0#32, kbusy := false, kvalid := true }

/-! ## Effects on a lane -/

/-- DINCLR's effect (R210). -/
def Lane.clearIn (l : Lane) : Lane := { l with din := zeroBlock, dincnt := 0#5 }

/-- DINPUSH's effect (R211). -/
def Lane.push (l : Lane) (b : Byte) : Lane :=
  { l with din := pushByte l.din l.dincnt b, dincnt := satInc l.dincnt }

/-- ENCRYPT's effect: the block is copied into the State and the lane starts at (0, ARK) (R212). -/
def Lane.start (l : Lane) : Lane :=
  { l with s := l.din, dincnt := 0#5, doutvalid := false, doutrd := 0#5, dpc := ⟨0#4, 3#2⟩, dbusy := true }

/-- DOUTPOP's effect on the read position (R213). -/
def Lane.pop (l : Lane) : Lane :=
  if l.doutrd = 15#5 then { l with doutvalid := false, doutrd := 0#5 } else { l with doutrd := l.doutrd + 1#5 }

/-- `S[d] <- t` and `DPC[d] <- p` (R220 to R223). -/
def Lane.setS (l : Lane) (t : Block) (p : Dpc) : Lane := { l with s := t, dpc := p }

/-- The transform ends with the ciphertext `t` (R220, n = 10). -/
def Lane.finish (l : Lane) (t : Block) : Lane :=
  { l with dout := t, s := zeroBlock, doutvalid := true, doutrd := 0#5, dbusy := false, dpc := ⟨0#4, 0#2⟩ }

/-! ## The sequencers -/

/-- The advance function of R31, from (r, ph) while the expansion does not end. -/
def nextKpc (r : BitVec 6) (ph : BitVec 3) : Kpc :=
  if ph = 0#3 then (if r.toNat % 4 = 0 then ⟨r, 1#3⟩ else ⟨r, 4#3⟩)
  else if ph = 1#3 then ⟨r, 2#3⟩
  else if ph = 2#3 then ⟨r, 3#3⟩
  else if ph = 3#3 then ⟨r, 4#3⟩
  else ⟨r + 1#6, 0#3⟩

/-- The advance function of R41, from (n, ph) while the transform does not end. -/
def nextDpc (n : BitVec 4) (ph : BitVec 2) : Dpc :=
  if ph = 0#2 then ⟨n, 1#2⟩
  else if ph = 1#2 then (if n.toNat ≤ 9 then ⟨n, 2#2⟩ else ⟨n, 3#2⟩)
  else if ph = 2#2 then ⟨n, 3#2⟩
  else ⟨n + 1#4, 0#2⟩

/-- The code that selects the KSE's next micro-operation (R120). -/
def Kpc.code (k : Kpc) : Code := .kpc (kpcBits k.kidx k.kph)

/-- The code that selects lane `d`'s next micro-operation (R120). -/
def Dpc.code (p : Dpc) (d : LaneNo) : Code := .dpc d (dpcBits p.rnd p.ph)

/-- The micro-operation the KSE runs next: none while `KBUSY = 0` (R25) or at a value R31 cannot reach. -/
def kseNext (s : State) : Option Instr := if s.kbusy then (decode s.nDp s.kpc.code).toOption else none

/-- The micro-operation lane `d` runs next: none while `DBUSY[d] = 0` (R40), at a value R41 cannot
reach, or where there is no such lane. -/
def laneNext (s : State) (d : LaneNo) : Option Instr :=
  match s.lane? d with
  | some l => if l.dbusy then (decode s.nDp (l.dpc.code d)).toOption else none
  | none => none

/-- A key micro-operation: it takes its step when the KSE's sequencer selects it (R120). -/
def kseStep (i : Instr) (s : State) (k : State → State) : Result :=
  if kseNext s = some i then .next (k s) else .fault .notSelected

/-- A block micro-operation: it takes its step when lane `d`'s sequencer selects it (R120). -/
def laneStep (i : Instr) (d : LaneNo) (s : State) (k : Lane → Lane) : Result :=
  if laneNext s d = some i then
    match s.lane? d with
    | some l => .next (s.setLane d (k l))
    | none => .fault .notSelected
  else .fault .notSelected

/-! ## Reset and the model's own fields -/

/-- The host's remaining actions become `rest`. -/
def State.setHost (s : State) (rest : List HostAction) : State := { s with hostActions := rest }

/-- The step is counted, and the laid-down interleaving moves on by one. -/
def State.tick (s : State) : State := { s with schedule := s.schedule.tail, stepCount := s.stepCount + 1 }

/-- The hardware reset, in any state (R310, R311): every item of the core takes its reset value and
`FATAL` is decided again. What stands outside the core is not touched (log entry 13). -/
def State.hardwareReset (s : State) : State :=
  { State.resetWith s.config with
    hostActions := s.hostActions, responses := s.responses, schedule := s.schedule, stepCount := s.stepCount }

/-- `c` placed so that the next step runs it: a command word as the host's next action, a sequencer
value in its unit's counter with the unit busy, and the agent concerned laid down to step next. -/
def State.place (s : State) (c : Code) : State :=
  match c with
  | .command w => { s with hostActions := .command w :: s.hostActions, schedule := .host :: s.schedule }
  | .kpc v =>
    { s with kbusy := true, kpc := ⟨v.extractLsb' 3 6, v.extractLsb' 0 3⟩, schedule := .kse :: s.schedule }
  | .dpc d v =>
    { s with lanes := s.lanes.modify d.toNat fun l => { l with dbusy := true, dpc := ⟨v.extractLsb' 2 4, v.extractLsb' 0 2⟩ },
             schedule := .lane d :: s.schedule }

end Sys2Proof.Machine
end

