-- ==== Sys2Proof/Machine/Control.lean ====
section
/-! DEFINITION. The control commands NOP, KSTAT and DSTAT (spec/43_control_commands.md section 1): never
held, and not ended by `FATAL`. -/

namespace Sys2Proof.Machine

/-- NOP: does nothing and succeeds (R250). -/
def execNop (s : State) : Result := .next (respond 0#24 s)

/-- KSTAT: returns the key status word (R251). -/
def execKstat (s : State) : Result := .next (respond (keyStatus s) s)

/-- DSTAT d: returns lane d's status word (R252). -/
def execDstat (d : LaneNo) (s : State) : Result := onLane d s fun l => .next (respond (laneStatus s l) s)

end Sys2Proof.Machine
end

