-- ==== Sys2Proof/Machine/KeySide.lean ====
section
/-! DEFINITION. The key-side commands and the micro-operations of the KSE (spec/41_key_expansion.md
sections 2 and 3). -/

namespace Sys2Proof.Machine

/-- KEYCLR: ends the session and empties the key side (R170). -/
def execKeyclr (s : State) : Result :=
  unlessFatal s <| holdUntil (released .keyclr s) s <| .next (respond 0#24 s.clearKeySide)

/-- KEYPUSH b: appends one byte to the key (R171). -/
def execKeypush (b : Byte) (s : State) : Result :=
  unlessFatal s <| holdUntil (released (.keypush b) s) s <| .next (respond 0#24 (s.pushKey b))

/-- EXPAND: checks the key length and starts KeyExpansion (R172, R271). -/
def execExpand (s : State) : Result :=
  unlessFatal s <| holdUntil (released .expand s) s <|
    if s.keycnt ≠ 16#5 then .next (raise .eKeylen (s.keycnt.zeroExtend 24) s)
    else .next (respond 0#24 s.beginExpansion)

/-- KLD: `TEMP <- W[r-1]` (R173). -/
def execKld (r : BitVec 6) (s : State) : Result :=
  kseStep (.kld r) s fun s => s.setTemp (wordAt s.w (r.toNat - 1)) (nextKpc r 0#3)

/-- KROT: `TEMP <- RotWord(TEMP)` (R174). -/
def execKrot (r : BitVec 6) (s : State) : Result :=
  kseStep (.krot r) s fun s => s.setTemp (rotWord s.temp) (nextKpc r 1#3)

/-- KSUB: `TEMP <- SubWord(TEMP)` (R175). -/
def execKsub (r : BitVec 6) (s : State) : Result :=
  kseStep (.ksub r) s fun s => s.setTemp (subWord s.roms s.temp) (nextKpc r 2#3)

/-- KRC: `TEMP <- TEMP xor RCON[r/4]` (R177). -/
def execKrc (r : BitVec 6) (s : State) : Result :=
  kseStep (.krc r) s fun s => s.setTemp (s.temp ^^^ s.roms.rconAt (r.toNat / 4)) (nextKpc r 3#3)

/-- KST: `W[r] <- W[r-4] xor TEMP`; at r = 43 the expansion ends (R176). -/
def execKst (r : BitVec 6) (s : State) : Result :=
  kseStep (.kst r) s fun s =>
    if r.toNat < 43 then s.storeWord r.toNat (wordAt s.w (r.toNat - 4) ^^^ s.temp) (nextKpc r 4#3)
    else s.endExpansion r.toNat (wordAt s.w (r.toNat - 4) ^^^ s.temp)

end Sys2Proof.Machine
end

