-- ==== Sys2Proof/Machine/LaneSide.lean ====
section
/-! DEFINITION. The lane commands and the micro-operations of a lane (spec/42_block_transform.md
sections 2 and 3). -/

namespace Sys2Proof.Machine

/-- DINCLR d: empties lane d's input buffer (R210). -/
def execDinclr (d : LaneNo) (s : State) : Result :=
  onLane d s fun l => unlessFatal s <| holdUntil (released (.dinclr d) s) s <|
    .next (respond 0#24 (s.setLane d l.clearIn))

/-- DINPUSH d, b: appends one byte to lane d's plaintext block (R211). -/
def execDinpush (d : LaneNo) (b : Byte) (s : State) : Result :=
  onLane d s fun l => unlessFatal s <| holdUntil (released (.dinpush d b) s) s <|
    .next (respond 0#24 (s.setLane d (l.push b)))

/-- ENCRYPT d: checks the schedule, then the block length, and starts BlockTransform on lane d
(R212, R272, R274, R290). -/
def execEncrypt (d : LaneNo) (s : State) : Result :=
  onLane d s fun l => unlessFatal s <| holdUntil (released (.encrypt d) s) s <|
    if !s.kvalid then .next (raise .eNosched 0#24 s)
    else if l.dincnt ≠ 16#5 then .next (raise .eBlklen (l.dincnt.zeroExtend 24) s)
    else .next (respond 0#24 (s.setLane d l.start))

/-- DOUTPOP d: returns the next ciphertext byte of lane d (R213, R275). A read position of 16 or more
names no byte (spec/93_implementation_defined.md U12, unreachable). -/
def execDoutpop (d : LaneNo) (s : State) : Result :=
  onLane d s fun l => unlessFatal s <| holdUntil (released (.doutpop d) s) s <|
    if !l.doutvalid then .next (raise .eNodata 0#24 s)
    else match l.dout[l.doutrd.toNat]? with
      | some v => .next (respond (v.zeroExtend 24) (s.setLane d l.pop))
      | none => .fault .noSuchByte

/-- ARK: AddRoundKey with round key n; at n = 10 the transform ends (R220). -/
def execArk (d : LaneNo) (n : BitVec 4) (s : State) : Result :=
  laneStep (.ark d n) d s fun l =>
    if n.toNat < 10 then l.setS (addRoundKey l.s s.w n.toNat) (nextDpc n 3#2)
    else l.finish (addRoundKey l.s s.w n.toNat)

/-- SB: SubBytes (R221). -/
def execSb (d : LaneNo) (n : BitVec 4) (s : State) : Result :=
  laneStep (.sb d n) d s fun l => l.setS (subBytes s.roms l.s) (nextDpc n 0#2)

/-- SR: ShiftRows (R222). -/
def execSr (d : LaneNo) (n : BitVec 4) (s : State) : Result :=
  laneStep (.sr d n) d s fun l => l.setS (shiftRows l.s) (nextDpc n 1#2)

/-- MC: MixColumns (R223). -/
def execMc (d : LaneNo) (n : BitVec 4) (s : State) : Result :=
  laneStep (.mc d n) d s fun l => l.setS (mixColumns l.s) (nextDpc n 2#2)

end Sys2Proof.Machine
end

