-- ==== Sys2Proof/Machine/Dispatch.lean ====
section
/-! DEFINITION. The dispatch: one arm per instruction. -/

namespace Sys2Proof.Machine

def exec (i : Instr) (s : State) : Host.Outcome State Fault Refusal :=
  match i with
  | .nop => Sys2Proof.Machine.execNop s
  | .keyclr => Sys2Proof.Machine.execKeyclr s
  | .keypush b => Sys2Proof.Machine.execKeypush b s
  | .expand => Sys2Proof.Machine.execExpand s
  | .kstat => Sys2Proof.Machine.execKstat s
  | .dinclr d => Sys2Proof.Machine.execDinclr d s
  | .dinpush d b => Sys2Proof.Machine.execDinpush d b s
  | .encrypt d => Sys2Proof.Machine.execEncrypt d s
  | .doutpop d => Sys2Proof.Machine.execDoutpop d s
  | .dstat d => Sys2Proof.Machine.execDstat d s
  | .kld r => Sys2Proof.Machine.execKld r s
  | .krot r => Sys2Proof.Machine.execKrot r s
  | .ksub r => Sys2Proof.Machine.execKsub r s
  | .krc r => Sys2Proof.Machine.execKrc r s
  | .kst r => Sys2Proof.Machine.execKst r s
  | .sb d n => Sys2Proof.Machine.execSb d n s
  | .sr d n => Sys2Proof.Machine.execSr d n s
  | .mc d n => Sys2Proof.Machine.execMc d n s
  | .ark d n => Sys2Proof.Machine.execArk d n s

end Sys2Proof.Machine
end

