-- ==== Sys2Proof/Machine/Agents.lean ====
section
/-! DEFINITION. The agents and their interleaving (spec/00_scope.md R12, spec/20_memory.md R80,
spec/60_exceptions.md R292, spec/70_reset_and_hazards.md R311, R330, R345): which agent has an enabled
step, what that step is, and which agent steps next. -/

namespace Sys2Proof.Machine

/-- The command word is held in this state (R292). An illegal word never is (R111). -/
def wordHeld (w : Word) (s : State) : Bool :=
  match decode s.nDp (.command w) with
  | .instr i => waits i s
  | .illegal _ => false

/-- The host has an enabled step: its next action is the reset, or a command that is not held, or a
held command that a reset drops (R292, R311). -/
def hostEnabled (s : State) : Bool :=
  match s.hostActions with
  | [] => false
  | .reset :: _ => true
  | .command w :: rest => !wordHeld w s || rest.head? == some .reset

/-- The agent has an enabled step (R12). -/
def enabled (a : Agent) (s : State) : Bool :=
  match a with
  | .host => hostEnabled s
  | .kse => (kseNext s).isSome
  | .lane d => (laneNext s d).isSome

/-- A unit is busy, so the state is not final (R345). -/
def State.unitBusy (s : State) : Bool := s.kbusy || !s.lanesIdle

/-- The agents of this core: the host, the KSE, every lane (R12). -/
def State.agents (s : State) : List Agent :=
  .host :: .kse :: (List.range s.nDp).map fun d => .lane (BitVec.ofNat 8 d)

/-- An enabled agent by free choice, none where no agent is enabled (log entry 4). Where one alone is
enabled there is nothing to choose. -/
def freePick (s : State) : Option Agent :=
  match s.agents.filter (enabled · s) with
  | [] => none
  | [a] => some a
  | as => as[Config.freeChoice s.stepCount % as.length]?

/-- The agent that steps next: the one laid down in `schedule` if it is enabled, else a free choice. -/
def chooseAgent (s : State) : Option Agent :=
  match s.schedule with
  | a :: _ => if enabled a s then some a else freePick s
  | [] => freePick s

/-- The host's command word `w` is decoded and executed; an illegal word raises `E_ILLEGAL(0)` (R110,
R111). -/
def issueWord (w : Word) (s : State) : Result :=
  match decode s.nDp (.command w) with
  | .instr i => exec i s
  | .illegal _ => .next (raise .eIllegal 0#24 s)

/-- The host's step: a reset, a command that is not held, or a reset that drops a held command without
a response (R311). A held command with no reset behind it keeps waiting. -/
def hostStep (s : State) : Result :=
  match s.hostActions with
  | [] => .next s
  | .reset :: rest => .next (s.setHost rest).hardwareReset
  | .command w :: rest =>
    if wordHeld w s then
      match rest with
      | .reset :: rest' => .next (s.setHost rest').hardwareReset
      | _ => .next s
    else issueWord w (s.setHost rest)

/-- The step of agent `a` (R12). A unit with no enabled step is stuck or idle and takes none. -/
def agentStep (a : Agent) (s : State) : Result :=
  match a with
  | .host => hostStep s
  | .kse =>
    match kseNext s with
    | some i => exec i s
    | none => .next s
  | .lane d =>
    match laneNext s d with
    | some i => exec i s
    | none => .next s

/-- One step of the whole machine: some agent with an enabled step takes it. With none, the machine
waits for the host in an unchanged state if no unit is busy (R345, log entry 8), and is stuck otherwise
(log entry 10). -/
def machineStep (s : State) : Result :=
  match chooseAgent s with
  | some a => agentStep a s.tick
  | none => if s.unitBusy then .fault .stuck else .next s

/-- The agents of a list step in turn; a disabled agent's turn changes nothing. -/
def runAgents : List Agent → State → Result
  | [], s => .next s
  | a :: as, s =>
    match agentStep a s with
    | .next t => runAgents as t
    | .fault f => .fault f
    | .refused r => .refused r

end Sys2Proof.Machine
end

