-- ==== Sys2Proof/Machine/Step.lean ====
section
/-! DEFINITION. The step, and the placing of an instruction where the next step runs it. -/

namespace Sys2Proof.Machine

/-- One step of the machine. -/
def step (s : State) : Host.Outcome State Fault Refusal := machineStep s

/-- `s` with the instruction of a table row's bits placed so that the very next step runs it: a command
word as the host's next action, a sequencer value in its unit's counter with the unit busy (lane 0 for a
lane's), and that agent first in `schedule` (log entry 5). Bits that are no code place nothing. -/
def State.withFetchWord (s : State) (nbits w : Nat) : State :=
  match codeOfTableWord nbits w with
  | some c => s.place c
  | none => s

end Sys2Proof.Machine
end

