-- ==== Sys2Proof/Machine/Pseudo.lean ====
section
/-! DEFINITION. The pseudo-instructions of spec/30_encoding.md R126 as the command lists they stand for,
and the collapsed reading of the machine that spec/70_reset_and_hazards.md R342 licenses: before each
command every busy unit runs to its end (log entry 12). -/

namespace Sys2Proof.Machine

/-- `KEYLOAD k` (R126). -/
def keyload (k : List Byte) : List Instr := .keyclr :: k.map .keypush

/-- `KEYEXPAND k` (R126): `expand(key)` of R104. -/
def keyexpand (k : List Byte) : List Instr := keyload k ++ [.expand]

/-- `BLKLOAD d, p` (R126). -/
def blkload (d : LaneNo) (p : List Byte) : List Instr := .dinclr d :: p.map (.dinpush d)

/-- `BLKREAD d` (R126). -/
def blkread (d : LaneNo) : List Instr := List.replicate 16 (.doutpop d)

/-- `ENCRYPTNEXT d, p` (R126). -/
def encryptnext (d : LaneNo) (p : List Byte) : List Instr := blkload d p ++ [.encrypt d] ++ blkread d

/-- `ENCRYPTBLOCK d, p, k` (R126): the exposed operation of R255. -/
def encryptblock (d : LaneNo) (p k : List Byte) : List Instr := keyexpand k ++ encryptnext d p

/-- One poll of `WAITK` or `WAITD d` (R126) ends the loop: bit 1 of the status payload is 0. -/
def pollEnds (rsp : Word) : Bool := !rsp.getLsbD 1

/-- `WAITK` with at most `n` polls (R126): KSTAT until a poll ends it, the key engine taking one step
before each poll (log entry 12). -/
def waitk : Nat → State → Result
  | 0, s => .next s
  | n + 1, s =>
    match runAgents [.kse] s with
    | .next t =>
      match exec .kstat t with
      | .next u => if pollEnds (u.responses.getLast?.getD 0#32) then .next u else waitk n u
      | r => r
    | r => r

/-- `WAITD d` with at most `n` polls (R126): DSTAT d until a poll ends it, lane d taking one step
before each poll (log entry 12). -/
def waitd (d : LaneNo) : Nat → State → Result
  | 0, s => .next s
  | n + 1, s =>
    match runAgents [.lane d] s with
    | .next t =>
      match exec (.dstat d) t with
      | .next u => if pollEnds (u.responses.getLast?.getD 0#32) then .next u else waitd d n u
      | r => r
    | r => r

/-- Every busy unit runs to its end: at most 110 steps of the KSE (R178) and 40 of each lane (R226); the
turns left over change nothing. -/
def State.settle (s : State) : Result :=
  runAgents (List.replicate 110 .kse ++
    (List.range s.nDp).flatMap fun d => List.replicate 40 (.lane (BitVec.ofNat 8 d))) s

/-- One command in the collapsed reading of R342. -/
def issueSettled (i : Instr) (s : State) : Result :=
  match s.settle with
  | .next t => exec i t
  | r => r

/-- The instructions of a list executed in turn. -/
def execAll : List Instr → State → Result
  | [], s => .next s
  | i :: is, s =>
    match exec i s with
    | .next t => execAll is t
    | r => r

/-- The commands of a pseudo-instruction in turn, stopping at the first response whose code is not 0x00
(R126). DESIGN CHOICE (log entry 19): R126 says so of one that contains a checking command and does not
define that term, so for KEYLOAD and BLKLOAD, which only clear and push, the stop is the model's choice. -/
def runPseudo : List Instr → State → Result
  | [], s => .next s
  | i :: is, s =>
    match issueSettled i s with
    | .next t => if responseCode (t.responses.getLast?.getD 0#32) = 0#8 then runPseudo is t else .next t
    | r => r

end Sys2Proof.Machine
end

