-- ==== Sys2Proof/Safety.lean ====
section
/-! DEFINITION. What the claims speak of: the invariants of spec/10_state.md R51, the end of a run
(spec/70_reset_and_hazards.md R345), and the two relations behind the noninterference claims (R50,
R344). -/

namespace Sys2Proof.Machine

/-- `KPC` is a value that R31 reaches from (4, KLD). -/
def Kpc.reachable (k : Kpc) : Bool := (decodeKpc (kpcBits k.kidx k.kph)).toOption.isSome

/-- `DPC` is a value that R41 reaches from (0, ARK). -/
def Dpc.reachable (p : Dpc) : Bool := (decodeDpc 0#8 (dpcBits p.rnd p.ph)).toOption.isSome

/-- What `TEMP` holds in the middle of word `KIDX` (R173 to R177). R51 does not say it; it is what makes
R51 (b) inductive (log entry 7). -/
structure TempInv (s : State) : Prop where
  atKrot : s.kpc.kph = 1#3 → s.temp = wordAt s.w (s.kpc.kidx.toNat - 1)
  atKsub : s.kpc.kph = 2#3 → s.temp = rotWord (wordAt s.w (s.kpc.kidx.toNat - 1))
  atKrc : s.kpc.kph = 3#3 → s.temp = subWord s.roms (rotWord (wordAt s.w (s.kpc.kidx.toNat - 1)))
  atKst : s.kpc.kph = 4#3 →
    s.temp = (if s.kpc.kidx.toNat % 4 = 0 then
      keyG s.roms (wordAt s.w (s.kpc.kidx.toNat - 1)) (s.kpc.kidx.toNat / 4)
    else wordAt s.w (s.kpc.kidx.toNat - 1))

/-- R51 (a), (b), (c): the key side. -/
structure KeyInv (s : State) : Prop where
  valid : s.kvalid = true → s.kbusy = false ∧ s.keycnt = 16#5 ∧ s.w = keyExpansion s.roms s.keybuf
  busy : s.kbusy = true → s.keycnt = 16#5 ∧ s.kvalid = false ∧ s.kpc.reachable = true ∧
    ∀ i, i < s.kpc.kidx.toNat → wordAt s.w i = wordAt (keyExpansion s.roms s.keybuf) i
  temp : s.kbusy = true → TempInv s
  idle : s.kbusy = false → s.kpc = ⟨0#6, 0#3⟩ ∧ s.temp = 0#32

/-- R51 (d), (e), (h): one lane. -/
structure LaneInv (s : State) (l : Lane) : Prop where
  busy : l.dbusy = true →
    s.kvalid = true ∧ s.kbusy = false ∧ l.doutvalid = false ∧ l.dpc.reachable = true
  idle : l.dbusy = false → l.dpc = ⟨0#4, 0#2⟩ ∧ l.s = Vector.replicate 16 0#8
  rd : (l.doutvalid = false → l.doutrd = 0#5) ∧ l.doutrd.toNat ≤ 15

/-- R51 (g): the core's own items are at their reset values. -/
structure AtReset (s : State) : Prop where
  keybuf : s.keybuf = Vector.replicate 16 0#8
  keycnt : s.keycnt = 0#5
  w : s.w = Vector.replicate 44 0#32
  kvalid : s.kvalid = false
  kbusy : s.kbusy = false
  temp : s.temp = 0#32
  kpc : s.kpc = ⟨0#6, 0#3⟩
  lanes : ∀ l ∈ s.lanes, l = Lane.reset

/-- The invariants of R51, with the configuration legal (R6) and `FATAL` as reset decided it (R26). -/
structure State.Inv (s : State) : Prop where
  legal : s.config.legal = true
  fatal : s.fatal = !tablesOk s.roms
  key : KeyInv s
  lane : ∀ l ∈ s.lanes, LaneInv s l
  exclusive : s.kbusy = true → ∀ l ∈ s.lanes, l.dbusy = false
  corrupt : s.fatal = true → AtReset s

/-- The run of the host's program is over (R345). -/
def State.Final (s : State) : Prop := s.hostActions = [] ∧ s.unitBusy = false

/-- Two lanes agree on everything but their data bytes: counts, flags, read position, sequencer. -/
structure LaneControlEq (a b : Lane) : Prop where
  dincnt : a.dincnt = b.dincnt
  doutvalid : a.doutvalid = b.doutvalid
  doutrd : a.doutrd = b.doutrd
  dbusy : a.dbusy = b.dbusy
  dpc : a.dpc = b.dpc

/-- Two states agree on everything but key, block, state and schedule bytes, and on the codes of the
responses so far (R344). -/
structure ControlEq (s t : State) : Prop where
  roms : s.roms = t.roms
  lanes : List.Forall₂ LaneControlEq s.lanes t.lanes
  keycnt : s.keycnt = t.keycnt
  kvalid : s.kvalid = t.kvalid
  kbusy : s.kbusy = t.kbusy
  fatal : s.fatal = t.fatal
  kpc : s.kpc = t.kpc
  hostActions : s.hostActions = t.hostActions
  codes : s.responses.map responseCode = t.responses.map responseCode
  schedule : s.schedule = t.schedule
  stepCount : s.stepCount = t.stepCount

/-- Two lanes agree on all that R50 lets the host see. -/
structure LaneVisibleEq (a b : Lane) : Prop where
  dincnt : a.dincnt = b.dincnt
  dout : a.dout = b.dout
  doutvalid : a.doutvalid = b.doutvalid
  doutrd : a.doutrd = b.doutrd
  dbusy : a.dbusy = b.dbusy

/-- Two states differ at most in what R50 hides: `S`, `TEMP`, `KPC`, `DPC`, `W`, `KEYBUF`, `DIN`. -/
structure VisibleEq (s t : State) : Prop where
  lanes : List.Forall₂ LaneVisibleEq s.lanes t.lanes
  keycnt : s.keycnt = t.keycnt
  kvalid : s.kvalid = t.kvalid
  kbusy : s.kbusy = t.kbusy
  fatal : s.fatal = t.fatal
  responses : s.responses = t.responses

/-- The action is not the hardware reset. -/
def HostAction.isCommand : HostAction → Bool
  | .command _ => true
  | .reset => false

/-- The instruction is one of the ten commands (R104). -/
def isCommand : Instr → Bool
  | .nop => true
  | .keyclr => true
  | .keypush _ => true
  | .expand => true
  | .kstat => true
  | .dinclr _ => true
  | .dinpush _ _ => true
  | .encrypt _ => true
  | .doutpop _ => true
  | .dstat _ => true
  | .kld _ => false
  | .krot _ => false
  | .ksub _ => false
  | .krc _ => false
  | .kst _ => false
  | .sb _ _ => false
  | .sr _ _ => false
  | .mc _ _ => false
  | .ark _ _ => false

/-- The instruction is one of the three that `FATAL` does not stop (R273). -/
def isStatus : Instr → Bool
  | .nop => true
  | .kstat => true
  | .dstat _ => true
  | .keyclr => false
  | .keypush _ => false
  | .expand => false
  | .dinclr _ => false
  | .dinpush _ _ => false
  | .encrypt _ => false
  | .doutpop _ => false
  | .kld _ => false
  | .krot _ => false
  | .ksub _ => false
  | .krc _ => false
  | .kst _ => false
  | .sb _ _ => false
  | .sr _ _ => false
  | .mc _ _ => false
  | .ark _ _ => false

end Sys2Proof.Machine
end

