-- ==== Sys2Proof/Certificates/Slice0/Obligations.lean ====
section
/-! DEFINITION. The statements for the provers, each from the spec's rules. In them `.next t` is an answer of
the machine, and an update written out as a record says that every field not named keeps its value. -/

open Sys2Proof Sys2Proof.Machine

/-! ## Encoding -/

/-- R110 with the encoder of R104 and R120: decoding the code of any well-formed instruction gives the
instruction back, every operand at every value the encoding admits. -/
def Obligations.DecodeOfEncode : Prop :=
  ∀ (nDp : Nat) (i : Instr), wellFormed nDp i = true → decode nDp (encode i) = .instr i

/-- Each code has one meaning: what decodes to an instruction is that instruction's own code, and the
instruction is well-formed. -/
def Obligations.EncodeOfDecode : Prop :=
  ∀ (nDp : Nat) (c : Code) (i : Instr), decode nDp c = .instr i → encode i = c ∧ wellFormed nDp i = true

/-- R104, R110: a word decodes to an instruction exactly when it matches a row of the command table under
match and mask and, in a format with a lane, names an existing lane; no word matches two rows. -/
def Obligations.DecodingIsTheCommandTable : Prop :=
  (∀ (nDp : Nat) (w : Word), (∃ i, decode nDp (.command w) = .instr i) ↔
    ∃ row ∈ commandTable, row.matches w = true ∧
      (row.format = .l ∨ row.format = .lb → (w.extractLsb' 16 8).toNat < nDp)) ∧
  (∀ w : Word, ∀ r₁ ∈ commandTable, ∀ r₂ ∈ commandTable,
    r₁.matches w = true → r₂.matches w = true → r₁ = r₂)

/-- A few words written out from R104 and a few sequencer values from R120 decode to what they stand for. -/
def Obligations.SampleCodesDecode : Prop :=
  decode 1 (.command 0x00000000#32) = .instr .nop ∧
  decode 1 (.command 0x020000a5#32) = .instr (.keypush 0xa5#8) ∧
  decode 1 (.command 0x110000ff#32) = .instr (.dinpush 0#8 0xff#8) ∧
  decode 2 (.command 0x12010000#32) = .instr (.encrypt 1#8) ∧
  decode 1 (.kpc 0b000100011#9) = .instr (.krc 4#6) ∧
  decode 1 (.dpc 0 0b101011#6) = .instr (.ark 0 10)

/-! ## The step -/

/-- R100, R80: when the host's turn is laid down and its next action is a word that decodes to `i` and is not
held, the step is `exec i` after the word left the host's actions; the turn is used up and the step counted. The
actions, the turns and the count are the model's own fields (log entries 1, 3 and 4). -/
def Obligations.StepRunsTheIssuedCommand : Prop :=
  ∀ (s : State) (w : Word) (i : Instr) (turns : List Agent) (acts : List HostAction),
    s.schedule = .host :: turns → s.hostActions = .command w :: acts →
    decode s.nDp (.command w) = .instr i → waits i s = false →
    step s = exec i { s with schedule := turns, hostActions := acts, stepCount := s.stepCount + 1 }

/-- R12, R120: when the turn of a busy unit is laid down, the step is `exec` of the micro-operation that its
sequencer counter's value decodes to. The turns and the count are the model's own (log entries 3 and 4). -/
def Obligations.StepRunsTheSelectedMicroOp : Prop :=
  (∀ (s : State) (i : Instr) (turns : List Agent),
    s.schedule = .kse :: turns → s.kbusy = true →
    decode s.nDp (.kpc (s.kpc.kidx ++ s.kpc.kph)) = .instr i →
    step s = exec i { s with schedule := turns, stepCount := s.stepCount + 1 }) ∧
  (∀ (s : State) (i : Instr) (d : LaneNo) (l : Lane) (turns : List Agent),
    s.schedule = .lane d :: turns → s.lanes[d.toNat]? = some l → l.dbusy = true →
    decode s.nDp (.dpc d (l.dpc.rnd ++ l.dpc.ph)) = .instr i →
    step s = exec i { s with schedule := turns, stepCount := s.stepCount + 1 })

/-- R12: with no turn laid down, an enabled agent takes the step whenever there is one, whatever the free
choice (log entry 4); with none and no unit busy the state stays as it is (R345, log entry 8). -/
def Obligations.SomeEnabledAgentSteps : Prop :=
  ∀ s : State, s.schedule = [] →
    ((∃ a ∈ s.agents, enabled a s = true) → ∃ a ∈ s.agents, enabled a s = true ∧ step s = agentStep a s.tick) ∧
    ((∀ a ∈ s.agents, enabled a s = false) → s.unitBusy = false → step s = .next s)

/-- Log entry 5: when the bits of a table row decode to `i` and `i` is not held, the step after `withFetchWord`
runs `i`, on a state in which at most the sequencer counter and the busy bit that select `i` differ from `s`. -/
def Obligations.PlacedInstructionRunsNext : Prop :=
  ∀ (s : State) (nbits w : Nat) (c : Code) (i : Instr),
    codeOfTableWord nbits w = some c → decode s.nDp c = .instr i → waits i s = false →
    ∃ t : State, step (s.withFetchWord nbits w) = exec i t ∧
      t = { s with kbusy := t.kbusy, kpc := t.kpc, lanes := t.lanes, stepCount := s.stepCount + 1 } ∧
      t.lanes.map (fun l => { l with dbusy := false, dpc := ⟨0#4, 0#2⟩ }) =
        s.lanes.map (fun l => { l with dbusy := false, dpc := ⟨0#4, 0#2⟩ }) ∧
      (isCommand i = true → t = { s with stepCount := s.stepCount + 1 })

/-- R111: an illegal word answers 0x06000000#32 whatever the state, is never held, and changes nothing else. -/
def Obligations.IllegalWordAnswersAndChangesNothing : Prop :=
  ∀ (s : State) (w : Word) (why : DecodeError) (turns : List Agent) (acts : List HostAction),
    s.schedule = .host :: turns → s.hostActions = .command w :: acts →
    decode s.nDp (.command w) = .illegal why →
    step s = .next { s with schedule := turns, hostActions := acts, stepCount := s.stepCount + 1,
                            responses := s.responses ++ [0x06000000#32] }

/-- R292: while the host's command is held and no reset stands behind it, no step answers it or takes it from
the host, whichever agent steps. -/
def Obligations.HeldCommandStaysPending : Prop :=
  ∀ (s t : State) (w : Word) (acts : List HostAction),
    s.hostActions = .command w :: acts → acts.head? ≠ some .reset → wordHeld w s = true → step s = .next t →
    t.hostActions = s.hostActions ∧ t.responses = s.responses

/-! ## Reset -/

/-- R52: every item of the core is zero after reset, and FATAL is `not TablesOK`, for every configuration. -/
def Obligations.ResetValues : Prop :=
  ∀ c : Config,
    (State.resetWith c).keybuf = Vector.replicate 16 0#8 ∧ (State.resetWith c).keycnt = 0#5 ∧
    (State.resetWith c).w = Vector.replicate 44 0#32 ∧ (State.resetWith c).kvalid = false ∧
    (State.resetWith c).kbusy = false ∧ (State.resetWith c).temp = 0#32 ∧ (State.resetWith c).kpc = ⟨0#6, 0#3⟩ ∧
    ((State.resetWith c).fatal = true ↔ ¬ TablesOK c.roms) ∧
    (State.resetWith c).lanes.length = c.nDp ∧
    ∀ l ∈ (State.resetWith c).lanes,
      l = { din := Vector.replicate 16 0#8, dincnt := 0#5, s := Vector.replicate 16 0#8,
            dout := Vector.replicate 16 0#8, doutvalid := false, doutrd := 0#5, dbusy := false, dpc := ⟨0#4, 0#2⟩ }

/-- R310, R311: the reset may be applied in any state. It sets every item of the core to its reset value,
decides FATAL again, and drops a held command without a response. That the actions left, the responses so far and
the turns outlive it is the model's choice (log entry 13). -/
def Obligations.ResetInAnyState : Prop :=
  (∀ (s : State) (turns : List Agent) (acts : List HostAction),
    s.schedule = .host :: turns → s.hostActions = .reset :: acts →
    step s = .next { State.resetWith { nDp := s.lanes.length, roms := s.roms } with
      hostActions := acts, responses := s.responses, schedule := turns, stepCount := s.stepCount + 1 }) ∧
  (∀ (s : State) (w : Word) (turns : List Agent) (acts : List HostAction),
    s.schedule = .host :: turns → s.hostActions = .command w :: .reset :: acts → wordHeld w s = true →
    step s = .next { State.resetWith { nDp := s.lanes.length, roms := s.roms } with
      hostActions := acts, responses := s.responses, schedule := turns, stepCount := s.stepCount + 1 })

/-! ## The control commands -/

/-- R250: NOP answers 0x00000000#32, in every state, and changes nothing else. -/
def Obligations.NopAnswersZero : Prop :=
  encode .nop = .command 0x00000000#32 ∧
  ∀ s : State, exec .nop s = .next { s with responses := s.responses ++ [0x00000000#32] }

/-- R46, R251: KSTAT answers the key status word, every field in its bits, and changes nothing else. -/
def Obligations.KstatAnswersKeyStatus : Prop :=
  encode .kstat = .command 0x04000000#32 ∧
  ∀ s : State, ∃ rsp : Word, exec .kstat s = .next { s with responses := s.responses ++ [rsp] } ∧
    rsp.extractLsb' 24 8 = 0x00#8 ∧
    rsp.getLsbD 0 = s.kvalid ∧ rsp.getLsbD 1 = s.kbusy ∧ rsp.getLsbD 2 = s.fatal ∧
    rsp.extractLsb' 3 5 = 0#5 ∧ rsp.extractLsb' 8 5 = s.keycnt ∧ rsp.extractLsb' 13 11 = 0#11

/-- R47, R252: DSTAT d answers lane d's status word, every field in its bits, and changes nothing else. R252
gives E_ILLEGAL at decode for an absent lane; that exec answers it too is the model's choice (log entry 17). -/
def Obligations.DstatAnswersLaneStatus : Prop :=
  (∀ d : LaneNo, encode (.dstat d) = .command (0x14#8 ++ d ++ 0x0000#16)) ∧
  (∀ (s : State) (d : LaneNo), s.lanes[d.toNat]? = none →
    exec (.dstat d) s = .next { s with responses := s.responses ++ [0x06000000#32] }) ∧
  (∀ (s : State) (d : LaneNo) (l : Lane), s.lanes[d.toNat]? = some l →
    ∃ rsp : Word, exec (.dstat d) s = .next { s with responses := s.responses ++ [rsp] } ∧
      rsp.extractLsb' 24 8 = 0x00#8 ∧
      rsp.getLsbD 0 = l.doutvalid ∧ rsp.getLsbD 1 = l.dbusy ∧ rsp.getLsbD 2 = s.fatal ∧
      rsp.extractLsb' 3 5 = 0#5 ∧ rsp.extractLsb' 8 5 = l.dincnt ∧ rsp.extractLsb' 13 3 = 0#3 ∧
      rsp.extractLsb' 16 5 = l.doutrd ∧ rsp.extractLsb' 21 3 = 0#3)

/-! ## The key-side commands -/

/-- R170: KEYCLR. -/
def Obligations.KeyclrEndsTheSession : Prop :=
  encode .keyclr = .command 0x01000000#32 ∧
  (∀ s : State, s.fatal = true →
    exec .keyclr s = .next { s with responses := s.responses ++ [0x03000000#32] }) ∧
  (∀ s : State, s.fatal = false → (s.kbusy = true ∨ ∃ l ∈ s.lanes, l.dbusy = true) →
    exec .keyclr s = .next s) ∧
  (∀ s : State, s.fatal = false → s.kbusy = false → (∀ l ∈ s.lanes, l.dbusy = false) →
    exec .keyclr s = .next { s with
      keybuf := Vector.replicate 16 0#8, keycnt := 0#5, w := Vector.replicate 44 0#32, temp := 0#32, kvalid := false,
      responses := s.responses ++ [0x00000000#32] })

/-- R171: KEYPUSH b. The byte is stored at index KEYCNT while KEYCNT < 16, the count saturates at 31, and
KVALID is cleared even when the byte is dropped. -/
def Obligations.KeypushAppendsAKeyByte : Prop :=
  (∀ b : Byte, encode (.keypush b) = .command (0x020000#24 ++ b)) ∧
  (∀ (s : State) (b : Byte), s.fatal = true →
    exec (.keypush b) s = .next { s with responses := s.responses ++ [0x03000000#32] }) ∧
  (∀ (s : State) (b : Byte), s.fatal = false → (s.kbusy = true ∨ ∃ l ∈ s.lanes, l.dbusy = true) →
    exec (.keypush b) s = .next s) ∧
  (∀ (s : State) (b : Byte), s.fatal = false → s.kbusy = false → (∀ l ∈ s.lanes, l.dbusy = false) →
    ∃ k : Block,
      exec (.keypush b) s = .next { s with
        keybuf := k, keycnt := (if s.keycnt = 31#5 then 31#5 else s.keycnt + 1#5), kvalid := false,
        responses := s.responses ++ [0x00000000#32] } ∧
      ∀ j : Fin 16, k[j] = if j.val = s.keycnt.toNat then b else s.keybuf[j])

/-- R172: EXPAND. With sixteen bytes pushed the key words are loaded and the engine starts at (4, KLD); with
any other count it answers E_KEYLEN with the count and changes nothing. -/
def Obligations.ExpandStartsTheEngine : Prop :=
  encode .expand = .command 0x03000000#32 ∧
  (∀ s : State, s.fatal = true →
    exec .expand s = .next { s with responses := s.responses ++ [0x03000000#32] }) ∧
  (∀ s : State, s.fatal = false → (s.kbusy = true ∨ ∃ l ∈ s.lanes, l.dbusy = true) →
    exec .expand s = .next s) ∧
  (∀ s : State, s.fatal = false → s.kbusy = false → (∀ l ∈ s.lanes, l.dbusy = false) → s.keycnt ≠ 16#5 →
    exec .expand s = .next { s with responses := s.responses ++ [0x01#8 ++ 0#19 ++ s.keycnt] }) ∧
  (∀ s : State, s.fatal = false → s.kbusy = false → (∀ l ∈ s.lanes, l.dbusy = false) → s.keycnt = 16#5 →
    ∃ w : Schedule,
      exec .expand s = .next { s with
        w := w, kpc := ⟨4#6, 0#3⟩, kbusy := true, kvalid := false, responses := s.responses ++ [0x00000000#32] } ∧
      wordAt w 0 = s.keybuf[0] ++ s.keybuf[1] ++ s.keybuf[2] ++ s.keybuf[3] ∧
      wordAt w 1 = s.keybuf[4] ++ s.keybuf[5] ++ s.keybuf[6] ++ s.keybuf[7] ∧
      wordAt w 2 = s.keybuf[8] ++ s.keybuf[9] ++ s.keybuf[10] ++ s.keybuf[11] ∧
      wordAt w 3 = s.keybuf[12] ++ s.keybuf[13] ++ s.keybuf[14] ++ s.keybuf[15] ∧
      ∀ j, 4 ≤ j → wordAt w j = wordAt s.w j)

/-! ## The micro-operations of the KSE -/

/-- R173: KLD, at r in 4..43. -/
def Obligations.KldLoadsThePreviousWord : Prop :=
  (∀ r : BitVec 6, encode (.kld r) = .kpc (r ++ 0#3)) ∧
  (∀ (s t : State) (r : BitVec 6), exec (.kld r) s = .next t →
    s.kbusy = true ∧ s.kpc = ⟨r, 0#3⟩ ∧ 4 ≤ r.toNat ∧ r.toNat ≤ 43) ∧
  (∀ (s : State) (r : BitVec 6), 4 ≤ r.toNat → r.toNat ≤ 43 → s.kbusy = true → s.kpc = ⟨r, 0#3⟩ →
    exec (.kld r) s = .next { s with
      temp := wordAt s.w (r.toNat - 1), kpc := (if r.toNat % 4 = 0 then ⟨r, 1#3⟩ else ⟨r, 4#3⟩) })

/-- R174, R161: KROT rotates TEMP left by one byte; it runs only at r in 4, 8, .., 40. -/
def Obligations.KrotRotatesTemp : Prop :=
  (∀ r : BitVec 6, encode (.krot r) = .kpc (r ++ 1#3)) ∧
  (∀ (s t : State) (r : BitVec 6), exec (.krot r) s = .next t →
    s.kbusy = true ∧ s.kpc = ⟨r, 1#3⟩ ∧ 4 ≤ r.toNat ∧ r.toNat ≤ 40 ∧ r.toNat % 4 = 0) ∧
  (∀ (s : State) (r : BitVec 6), 4 ≤ r.toNat → r.toNat ≤ 40 → r.toNat % 4 = 0 → s.kbusy = true →
    s.kpc = ⟨r, 1#3⟩ →
    exec (.krot r) s = .next { s with
      temp := s.temp.extractLsb' 0 24 ++ s.temp.extractLsb' 24 8, kpc := ⟨r, 2#3⟩ })

/-- R175, R162: KSUB substitutes each byte of TEMP through the S-box ROM; it runs only at r in 4, 8, .., 40. -/
def Obligations.KsubSubstitutesTemp : Prop :=
  (∀ r : BitVec 6, encode (.ksub r) = .kpc (r ++ 2#3)) ∧
  (∀ (s t : State) (r : BitVec 6), exec (.ksub r) s = .next t →
    s.kbusy = true ∧ s.kpc = ⟨r, 2#3⟩ ∧ 4 ≤ r.toNat ∧ r.toNat ≤ 40 ∧ r.toNat % 4 = 0) ∧
  (∀ (s : State) (r : BitVec 6), 4 ≤ r.toNat → r.toNat ≤ 40 → r.toNat % 4 = 0 → s.kbusy = true →
    s.kpc = ⟨r, 2#3⟩ →
    exec (.ksub r) s = .next { s with
      temp := s.roms.sboxAt (s.temp.extractLsb' 24 8) ++ s.roms.sboxAt (s.temp.extractLsb' 16 8) ++
        s.roms.sboxAt (s.temp.extractLsb' 8 8) ++ s.roms.sboxAt (s.temp.extractLsb' 0 8),
      kpc := ⟨r, 3#3⟩ })

/-- R177: KRC xors the round constant r/4 into TEMP; it runs only at r in 4, 8, .., 40. -/
def Obligations.KrcAddsTheRoundConstant : Prop :=
  (∀ r : BitVec 6, encode (.krc r) = .kpc (r ++ 3#3)) ∧
  (∀ (s t : State) (r : BitVec 6), exec (.krc r) s = .next t →
    s.kbusy = true ∧ s.kpc = ⟨r, 3#3⟩ ∧ 4 ≤ r.toNat ∧ r.toNat ≤ 40 ∧ r.toNat % 4 = 0) ∧
  (∀ (s : State) (r : BitVec 6), 4 ≤ r.toNat → r.toNat ≤ 40 → r.toNat % 4 = 0 → s.kbusy = true →
    s.kpc = ⟨r, 3#3⟩ →
    exec (.krc r) s = .next { s with temp := s.temp ^^^ s.roms.rconAt (r.toNat / 4), kpc := ⟨r, 4#3⟩ })

/-- R176: KST stores W[r]; at r = 43 the expansion ends. -/
def Obligations.KstStoresTheWord : Prop :=
  (∀ r : BitVec 6, encode (.kst r) = .kpc (r ++ 4#3)) ∧
  (∀ (s t : State) (r : BitVec 6), exec (.kst r) s = .next t →
    s.kbusy = true ∧ s.kpc = ⟨r, 4#3⟩ ∧ 4 ≤ r.toNat ∧ r.toNat ≤ 43) ∧
  (∀ (s : State) (r : BitVec 6), 4 ≤ r.toNat → r.toNat ≤ 43 → s.kbusy = true → s.kpc = ⟨r, 4#3⟩ →
    ∃ w : Schedule,
      wordAt w r.toNat = wordAt s.w (r.toNat - 4) ^^^ s.temp ∧
      (∀ j, j ≠ r.toNat → wordAt w j = wordAt s.w j) ∧
      (r.toNat < 43 → exec (.kst r) s = .next { s with w := w, kpc := ⟨r + 1#6, 0#3⟩ }) ∧
      (r.toNat = 43 → exec (.kst r) s = .next { s with
        w := w, kpc := ⟨0#6, 0#3⟩, temp := 0#32, kbusy := false, kvalid := true }))

/-! ## The lane commands -/

/-- R210: DINCLR d empties the input buffer, is never held, and touches no other lane. R210 gives E_ILLEGAL at decode
for an absent lane; that exec answers it too is the model's choice (log entry 17). -/
def Obligations.DinclrEmptiesTheInputBuffer : Prop :=
  (∀ d : LaneNo, encode (.dinclr d) = .command (0x10#8 ++ d ++ 0x0000#16)) ∧
  (∀ (s : State) (d : LaneNo), s.lanes[d.toNat]? = none →
    exec (.dinclr d) s = .next { s with responses := s.responses ++ [0x06000000#32] }) ∧
  (∀ (s : State) (d : LaneNo) (l : Lane), s.lanes[d.toNat]? = some l → s.fatal = true →
    exec (.dinclr d) s = .next { s with responses := s.responses ++ [0x03000000#32] }) ∧
  (∀ (s : State) (d : LaneNo) (l : Lane), s.lanes[d.toNat]? = some l → s.fatal = false →
    exec (.dinclr d) s = .next { s with
      lanes := s.lanes.set d.toNat { l with din := Vector.replicate 16 0#8, dincnt := 0#5 },
      responses := s.responses ++ [0x00000000#32] })

/-- R211: DINPUSH d, b stores the byte at index DINCNT[d] while DINCNT[d] < 16, counts it, saturating at 31,
and is never held. R211 gives E_ILLEGAL at decode for an absent lane; that exec answers it too is the model's choice
(log entry 17). -/
def Obligations.DinpushAppendsABlockByte : Prop :=
  (∀ (d : LaneNo) (b : Byte), encode (.dinpush d b) = .command (0x11#8 ++ d ++ 0x00#8 ++ b)) ∧
  (∀ (s : State) (d : LaneNo) (b : Byte), s.lanes[d.toNat]? = none →
    exec (.dinpush d b) s = .next { s with responses := s.responses ++ [0x06000000#32] }) ∧
  (∀ (s : State) (d : LaneNo) (b : Byte) (l : Lane), s.lanes[d.toNat]? = some l → s.fatal = true →
    exec (.dinpush d b) s = .next { s with responses := s.responses ++ [0x03000000#32] }) ∧
  (∀ (s : State) (d : LaneNo) (b : Byte) (l : Lane), s.lanes[d.toNat]? = some l → s.fatal = false →
    ∃ p : Block,
      exec (.dinpush d b) s = .next { s with
        lanes := s.lanes.set d.toNat
          { l with din := p, dincnt := (if l.dincnt = 31#5 then 31#5 else l.dincnt + 1#5) },
        responses := s.responses ++ [0x00000000#32] } ∧
      ∀ j : Fin 16, p[j] = if j.val = l.dincnt.toNat then b else l.din[j])

/-- R212: ENCRYPT d. Held while the KSE or lane d is busy; E_NOSCHED before E_BLKLEN; on success the block is
copied into S and the lane starts at (0, ARK). R212 gives E_ILLEGAL at decode for an absent lane; that exec answers
it too is the model's choice (log entry 17). -/
def Obligations.EncryptStartsTheLane : Prop :=
  (∀ d : LaneNo, encode (.encrypt d) = .command (0x12#8 ++ d ++ 0x0000#16)) ∧
  (∀ (s : State) (d : LaneNo), s.lanes[d.toNat]? = none →
    exec (.encrypt d) s = .next { s with responses := s.responses ++ [0x06000000#32] }) ∧
  (∀ (s : State) (d : LaneNo) (l : Lane), s.lanes[d.toNat]? = some l → s.fatal = true →
    exec (.encrypt d) s = .next { s with responses := s.responses ++ [0x03000000#32] }) ∧
  (∀ (s : State) (d : LaneNo) (l : Lane), s.lanes[d.toNat]? = some l → s.fatal = false →
    (s.kbusy = true ∨ l.dbusy = true) → exec (.encrypt d) s = .next s) ∧
  (∀ (s : State) (d : LaneNo) (l : Lane), s.lanes[d.toNat]? = some l → s.fatal = false →
    s.kbusy = false → l.dbusy = false → s.kvalid = false →
    exec (.encrypt d) s = .next { s with responses := s.responses ++ [0x04000000#32] }) ∧
  (∀ (s : State) (d : LaneNo) (l : Lane), s.lanes[d.toNat]? = some l → s.fatal = false →
    s.kbusy = false → l.dbusy = false → s.kvalid = true → l.dincnt ≠ 16#5 →
    exec (.encrypt d) s = .next { s with responses := s.responses ++ [0x02#8 ++ 0#19 ++ l.dincnt] }) ∧
  (∀ (s : State) (d : LaneNo) (l : Lane), s.lanes[d.toNat]? = some l → s.fatal = false →
    s.kbusy = false → l.dbusy = false → s.kvalid = true → l.dincnt = 16#5 →
    exec (.encrypt d) s = .next { s with
      lanes := s.lanes.set d.toNat
        { l with s := l.din, dincnt := 0#5, doutvalid := false, doutrd := 0#5, dpc := ⟨0#4, 3#2⟩, dbusy := true },
      responses := s.responses ++ [0x00000000#32] })

/-- R213: DOUTPOP d returns byte DOUTRD[d], 0..15, and moves on; the pop of byte 15 clears DOUTVALID and DOUTRD.
R213 gives E_ILLEGAL at decode for an absent lane; that exec answers it too is the model's choice (log entry 17). -/
def Obligations.DoutpopReturnsTheNextByte : Prop :=
  (∀ d : LaneNo, encode (.doutpop d) = .command (0x13#8 ++ d ++ 0x0000#16)) ∧
  (∀ (s : State) (d : LaneNo), s.lanes[d.toNat]? = none →
    exec (.doutpop d) s = .next { s with responses := s.responses ++ [0x06000000#32] }) ∧
  (∀ (s : State) (d : LaneNo) (l : Lane), s.lanes[d.toNat]? = some l → s.fatal = true →
    exec (.doutpop d) s = .next { s with responses := s.responses ++ [0x03000000#32] }) ∧
  (∀ (s : State) (d : LaneNo) (l : Lane), s.lanes[d.toNat]? = some l → s.fatal = false → l.dbusy = true →
    exec (.doutpop d) s = .next s) ∧
  (∀ (s : State) (d : LaneNo) (l : Lane), s.lanes[d.toNat]? = some l → s.fatal = false → l.dbusy = false →
    l.doutvalid = false →
    exec (.doutpop d) s = .next { s with responses := s.responses ++ [0x05000000#32] }) ∧
  (∀ (s : State) (d : LaneNo) (l : Lane) (j : Fin 16), s.lanes[d.toNat]? = some l → s.fatal = false →
    l.dbusy = false → l.doutvalid = true → l.doutrd.toNat = j.val →
    exec (.doutpop d) s = .next { s with
      lanes := s.lanes.set d.toNat
        (if j.val = 15 then { l with doutvalid := false, doutrd := 0#5 } else { l with doutrd := l.doutrd + 1#5 }),
      responses := s.responses ++ [0x000000#24 ++ l.dout[j]] })

/-! ## The micro-operations of a lane -/

/-- R220, R201: ARK xors round key n into the State; at n = 10 the result goes to DOUT and the transform ends. -/
def Obligations.ArkAddsTheRoundKey : Prop :=
  (∀ (d : LaneNo) (n : BitVec 4), encode (.ark d n) = .dpc d (n ++ 3#2)) ∧
  (∀ (s t : State) (d : LaneNo) (n : BitVec 4), exec (.ark d n) s = .next t →
    n.toNat ≤ 10 ∧ ∃ l, s.lanes[d.toNat]? = some l ∧ l.dbusy = true ∧ l.dpc = ⟨n, 3#2⟩) ∧
  (∀ (s : State) (d : LaneNo) (n : BitVec 4) (l : Lane), n.toNat ≤ 10 → s.lanes[d.toNat]? = some l →
    l.dbusy = true → l.dpc = ⟨n, 3#2⟩ →
    ∃ t : Block,
      (∀ j : Fin 16, t[j] = l.s[j] ^^^ byteOf (wordAt s.w (4 * n.toNat + j.val / 4)) (j.val % 4)) ∧
      (n.toNat < 10 → exec (.ark d n) s = .next { s with
        lanes := s.lanes.set d.toNat { l with s := t, dpc := ⟨n + 1#4, 0#2⟩ } }) ∧
      (n.toNat = 10 → exec (.ark d n) s = .next { s with
        lanes := s.lanes.set d.toNat { l with
          dout := t, s := Vector.replicate 16 0#8, doutvalid := true, doutrd := 0#5, dbusy := false,
          dpc := ⟨0#4, 0#2⟩ } }))

/-- R221, R202: SB replaces every byte of the State with its S-box entry. -/
def Obligations.SbSubstitutesTheState : Prop :=
  (∀ (d : LaneNo) (n : BitVec 4), encode (.sb d n) = .dpc d (n ++ 0#2)) ∧
  (∀ (s t : State) (d : LaneNo) (n : BitVec 4), exec (.sb d n) s = .next t →
    1 ≤ n.toNat ∧ n.toNat ≤ 10 ∧ ∃ l, s.lanes[d.toNat]? = some l ∧ l.dbusy = true ∧ l.dpc = ⟨n, 0#2⟩) ∧
  (∀ (s : State) (d : LaneNo) (n : BitVec 4) (l : Lane), 1 ≤ n.toNat → n.toNat ≤ 10 →
    s.lanes[d.toNat]? = some l → l.dbusy = true → l.dpc = ⟨n, 0#2⟩ →
    ∃ t : Block, (∀ j : Fin 16, t[j] = s.roms.sboxAt l.s[j]) ∧
      exec (.sb d n) s = .next { s with lanes := s.lanes.set d.toNat { l with s := t, dpc := ⟨n, 1#2⟩ } })

/-- R222, R203: SR moves the byte in row r, column c+r to row r, column c; after round 10 comes ARK, not MC. -/
def Obligations.SrShiftsTheRows : Prop :=
  (∀ (d : LaneNo) (n : BitVec 4), encode (.sr d n) = .dpc d (n ++ 1#2)) ∧
  (∀ (s t : State) (d : LaneNo) (n : BitVec 4), exec (.sr d n) s = .next t →
    1 ≤ n.toNat ∧ n.toNat ≤ 10 ∧ ∃ l, s.lanes[d.toNat]? = some l ∧ l.dbusy = true ∧ l.dpc = ⟨n, 1#2⟩) ∧
  (∀ (s : State) (d : LaneNo) (n : BitVec 4) (l : Lane), 1 ≤ n.toNat → n.toNat ≤ 10 →
    s.lanes[d.toNat]? = some l → l.dbusy = true → l.dpc = ⟨n, 1#2⟩ →
    ∃ t : Block,
      (∀ r c : Fin 4, t[r.val + 4 * c.val]? = l.s[r.val + 4 * ((c.val + r.val) % 4)]?) ∧
      exec (.sr d n) s = .next { s with
        lanes := s.lanes.set d.toNat
          { l with s := t, dpc := (if n.toNat ≤ 9 then ⟨n, 2#2⟩ else ⟨10#4, 3#2⟩) } })

/-- R223, R204: MC replaces each column by the product of the fixed matrix with it; it never runs with n = 10. -/
def Obligations.McMixesTheColumns : Prop :=
  (∀ (d : LaneNo) (n : BitVec 4), encode (.mc d n) = .dpc d (n ++ 2#2)) ∧
  (∀ (s t : State) (d : LaneNo) (n : BitVec 4), exec (.mc d n) s = .next t →
    1 ≤ n.toNat ∧ n.toNat ≤ 9 ∧ ∃ l, s.lanes[d.toNat]? = some l ∧ l.dbusy = true ∧ l.dpc = ⟨n, 2#2⟩) ∧
  (∀ (s : State) (d : LaneNo) (n : BitVec 4) (l : Lane), 1 ≤ n.toNat → n.toNat ≤ 9 →
    s.lanes[d.toNat]? = some l → l.dbusy = true → l.dpc = ⟨n, 2#2⟩ →
    ∃ t : Block,
      (∀ (c : Fin 4) (a0 a1 a2 a3 : Byte),
        l.s[4 * c.val]? = some a0 → l.s[4 * c.val + 1]? = some a1 →
        l.s[4 * c.val + 2]? = some a2 → l.s[4 * c.val + 3]? = some a3 →
        t[4 * c.val]? = some (gmul 0x02#8 a0 ^^^ gmul 0x03#8 a1 ^^^ a2 ^^^ a3) ∧
        t[4 * c.val + 1]? = some (a0 ^^^ gmul 0x02#8 a1 ^^^ gmul 0x03#8 a2 ^^^ a3) ∧
        t[4 * c.val + 2]? = some (a0 ^^^ a1 ^^^ gmul 0x02#8 a2 ^^^ gmul 0x03#8 a3) ∧
        t[4 * c.val + 3]? = some (gmul 0x03#8 a0 ^^^ a1 ^^^ a2 ^^^ gmul 0x02#8 a3)) ∧
      exec (.mc d n) s = .next { s with lanes := s.lanes.set d.toNat { l with s := t, dpc := ⟨n, 3#2⟩ } })

/-- Where the model stops, and nowhere else; each stop is the model's choice (U10 to U12 of
spec/93_implementation_defined.md, log entries 9 to 11). `exec` of a micro-operation that its unit does not select
has no step to take (R120) and answers notSelected, in states that runs reach too; the step never answers that. A
DOUTPOP at a read position of 16 or more names no byte, and the step stops when a unit is busy and no agent has an
enabled step. That a lane command on an absent lane answers a next state is the model's choice too (log entry 17).
This says nothing of which states a run reaches; `Obligations.InvariantStatesNeverStop` does. -/
def Obligations.TheOnlyStops : Prop :=
  (∀ (s : State) (i : Instr), isCommand i = false →
    (∃ t, exec i s = .next t) ∨ exec i s = .fault .notSelected) ∧
  (∀ (s : State) (i : Instr), isCommand i = true →
    (∃ t, exec i s = .next t) ∨
    (exec i s = .fault .noSuchByte ∧ ∃ d l, i = .doutpop d ∧ s.lanes[d.toNat]? = some l ∧ l.doutvalid = true ∧
      16 ≤ l.doutrd.toNat)) ∧
  (∀ (s : State) (d : LaneNo) (l : Lane), s.lanes[d.toNat]? = some l → s.fatal = false → l.dbusy = false →
    l.doutvalid = true → 16 ≤ l.doutrd.toNat → exec (.doutpop d) s = .fault .noSuchByte) ∧
  (∀ (s : State) (f : Fault), step s = .fault f →
    (f = .stuck ∧ s.unitBusy = true ∧ ∀ a ∈ s.agents, enabled a s = false) ∨ f = .noSuchByte) ∧
  (∀ (s : State) (why : Refusal), step s ≠ .refused why)

/-! ## Frames -/

/-- The frame of NOP, KSTAT, DSTAT, KEYCLR, KEYPUSH and EXPAND: what they leave unchanged when they answer a
next state, to the byte of KEYBUF and the word of W. -/
def Obligations.KeySideCommandFrame : Prop :=
  ∀ (s t : State) (b : Byte) (d : LaneNo),
    (exec .nop s = .next t → t = { s with responses := t.responses }) ∧
    (exec .kstat s = .next t → t = { s with responses := t.responses }) ∧
    (exec (.dstat d) s = .next t → t = { s with responses := t.responses }) ∧
    (exec .keyclr s = .next t → t = { s with
      keybuf := t.keybuf, keycnt := t.keycnt, w := t.w, temp := t.temp, kvalid := t.kvalid,
      responses := t.responses }) ∧
    (exec (.keypush b) s = .next t →
      t = { s with keybuf := t.keybuf, keycnt := t.keycnt, kvalid := t.kvalid, responses := t.responses } ∧
      ∀ j : Fin 16, j.val ≠ s.keycnt.toNat → t.keybuf[j] = s.keybuf[j]) ∧
    (exec .expand s = .next t →
      t = { s with w := t.w, kpc := t.kpc, kbusy := t.kbusy, kvalid := t.kvalid, responses := t.responses } ∧
      ∀ j, 4 ≤ j → wordAt t.w j = wordAt s.w j)

/-- The frame of KLD, KROT, KSUB, KRC and KST: no lane, no key byte, no response changes; KST changes one word
of W and the others none. -/
def Obligations.KeyMicroOpFrame : Prop :=
  ∀ (s t : State) (r : BitVec 6),
    (∀ i ∈ [Instr.kld r, .krot r, .ksub r, .krc r], exec i s = .next t →
      t = { s with temp := t.temp, kpc := t.kpc }) ∧
    (exec (.kst r) s = .next t →
      t = { s with w := t.w, temp := t.temp, kpc := t.kpc, kbusy := t.kbusy, kvalid := t.kvalid } ∧
      ∀ j, j ≠ r.toNat → wordAt t.w j = wordAt s.w j)

/-- The frame of DINCLR, DINPUSH, ENCRYPT and DOUTPOP: the key side and every other lane are unchanged, and of
lane d only the items the command is said to write change. -/
def Obligations.LaneCommandFrame : Prop :=
  ∀ (s t : State) (d : LaneNo) (b : Byte) (i : Instr),
    i ∈ [Instr.dinclr d, .dinpush d b, .encrypt d, .doutpop d] → exec i s = .next t →
    t = { s with lanes := t.lanes, responses := t.responses } ∧ t.lanes.length = s.lanes.length ∧
    (∀ e : Nat, e ≠ d.toNat → t.lanes[e]? = s.lanes[e]?) ∧
    ∀ l l' : Lane, s.lanes[d.toNat]? = some l → t.lanes[d.toNat]? = some l' →
      l'.dout = l.dout ∧
      (i = .dinclr d → l' = { l with din := l'.din, dincnt := l'.dincnt }) ∧
      (i = .dinpush d b → l' = { l with din := l'.din, dincnt := l'.dincnt } ∧
        ∀ j : Fin 16, j.val ≠ l.dincnt.toNat → l'.din[j] = l.din[j]) ∧
      (i = .encrypt d → l' = { l with
        s := l'.s, dincnt := l'.dincnt, doutvalid := l'.doutvalid, doutrd := l'.doutrd, dpc := l'.dpc,
        dbusy := l'.dbusy }) ∧
      (i = .doutpop d → l' = { l with doutvalid := l'.doutvalid, doutrd := l'.doutrd })

/-- The frame of SB, SR, MC and ARK: the key side, the responses and every other lane are unchanged, and of lane
d only S and DPC change, except in the last ARK, which writes DOUT and its flags too. -/
def Obligations.LaneMicroOpFrame : Prop :=
  ∀ (s t : State) (d : LaneNo) (n : BitVec 4) (i : Instr),
    i ∈ [Instr.sb d n, .sr d n, .mc d n, .ark d n] → exec i s = .next t →
    t = { s with lanes := t.lanes } ∧ t.lanes.length = s.lanes.length ∧
    (∀ e : Nat, e ≠ d.toNat → t.lanes[e]? = s.lanes[e]?) ∧
    ∀ l l' : Lane, s.lanes[d.toNat]? = some l → t.lanes[d.toNat]? = some l' →
      l'.din = l.din ∧ l'.dincnt = l.dincnt ∧
      (i ≠ .ark d 10#4 → l' = { l with s := l'.s, dpc := l'.dpc })

/-- The column "written by" of R20, item by item, over all instructions: which of them can change each item of the
state. The reset, which writes every item, is no instruction (`Obligations.ResetInAnyState`). Of the model's own
fields the responses are written by commands only and the others by no instruction (log entries 1 to 4 and 6). -/
def Obligations.OnlyTheNamedInstructionsWrite : Prop :=
  ∀ (s t : State) (i : Instr), exec i s = .next t →
    (t.roms = s.roms ∧ t.lanes.length = s.lanes.length ∧ t.fatal = s.fatal) ∧
    (t.hostActions = s.hostActions ∧ t.schedule = s.schedule ∧ t.stepCount = s.stepCount) ∧
    (t.responses ≠ s.responses → isCommand i = true) ∧
    (t.keybuf ≠ s.keybuf → i = .keyclr ∨ ∃ b, i = .keypush b) ∧
    (t.keycnt ≠ s.keycnt → i = .keyclr ∨ ∃ b, i = .keypush b) ∧
    (t.w ≠ s.w → i = .keyclr ∨ i = .expand ∨ ∃ r, i = .kst r) ∧
    (s.kvalid = false → t.kvalid = true → i = .kst 43#6) ∧
    (s.kvalid = true → t.kvalid = false → i = .keyclr ∨ i = .expand ∨ ∃ b, i = .keypush b) ∧
    (s.kbusy = false → t.kbusy = true → i = .expand) ∧
    (s.kbusy = true → t.kbusy = false → i = .kst 43#6) ∧
    (t.temp ≠ s.temp → i = .keyclr ∨ i = .kst 43#6 ∨ ∃ r, i ∈ [Instr.kld r, .krot r, .ksub r, .krc r]) ∧
    (t.kpc ≠ s.kpc → i = .expand ∨ ∃ r, i ∈ [Instr.kld r, .krot r, .ksub r, .krc r, .kst r]) ∧
    (∀ (e : Nat) (l l' : Lane), s.lanes[e]? = some l → t.lanes[e]? = some l' →
      (l'.din ≠ l.din → ∃ d, d.toNat = e ∧ (i = .dinclr d ∨ ∃ b, i = .dinpush d b)) ∧
      (l'.dincnt ≠ l.dincnt → ∃ d, d.toNat = e ∧ (i = .dinclr d ∨ i = .encrypt d ∨ ∃ b, i = .dinpush d b)) ∧
      (l'.s ≠ l.s → ∃ d, d.toNat = e ∧
        (i = .encrypt d ∨ ∃ n, i ∈ [Instr.ark d n, .sb d n, .sr d n, .mc d n])) ∧
      (l'.dout ≠ l.dout → ∃ d, d.toNat = e ∧ i = .ark d 10#4) ∧
      (l.doutvalid = false → l'.doutvalid = true → ∃ d, d.toNat = e ∧ i = .ark d 10#4) ∧
      (l.doutvalid = true → l'.doutvalid = false → ∃ d, d.toNat = e ∧ (i = .encrypt d ∨ i = .doutpop d)) ∧
      (l'.doutrd ≠ l.doutrd → ∃ d, d.toNat = e ∧ (i = .encrypt d ∨ i = .doutpop d ∨ i = .ark d 10#4)) ∧
      (l.dbusy = false → l'.dbusy = true → ∃ d, d.toNat = e ∧ i = .encrypt d) ∧
      (l.dbusy = true → l'.dbusy = false → ∃ d, d.toNat = e ∧ i = .ark d 10#4) ∧
      (l'.dpc ≠ l.dpc → ∃ d, d.toNat = e ∧
        (i = .encrypt d ∨ ∃ n, i ∈ [Instr.ark d n, .sb d n, .sr d n, .mc d n])))

/-! ## Failures and holds -/

/-- R280: a command that fails changes nothing; only its response word is given. -/
def Obligations.FailedCommandChangesNothing : Prop :=
  ∀ (s t : State) (i : Instr) (rsp : Word), isCommand i = true → exec i s = .next t →
    t.responses = s.responses ++ [rsp] → rsp.extractLsb' 24 8 ≠ 0x00#8 →
    t = { s with responses := s.responses ++ [rsp] }

/-- R271 to R276 with R281: which failure responses each command can give. That exec, and not only decode, gives
E_ILLEGAL on an absent lane is the model's choice (log entry 17). -/
def Obligations.FailureResponsesOfEachCommand : Prop :=
  ∀ (s t : State) (i : Instr) (rsp : Word), isCommand i = true → exec i s = .next t →
    t.responses = s.responses ++ [rsp] → rsp.extractLsb' 24 8 ≠ 0x00#8 →
    (rsp = 0x01#8 ++ 0#19 ++ s.keycnt ∧ s.keycnt ≠ 16#5 ∧ i = .expand) ∨
    (∃ d l, rsp = 0x02#8 ++ 0#19 ++ l.dincnt ∧ l.dincnt ≠ 16#5 ∧ s.lanes[d.toNat]? = some l ∧ i = .encrypt d) ∨
    (rsp = 0x03000000#32 ∧ s.fatal = true ∧ isStatus i = false) ∨
    (rsp = 0x04000000#32 ∧ s.kvalid = false ∧ ∃ d, i = .encrypt d) ∨
    (∃ d l, rsp = 0x05000000#32 ∧ s.lanes[d.toNat]? = some l ∧ l.doutvalid = false ∧ i = .doutpop d) ∨
    (rsp = 0x06000000#32 ∧ wellFormed s.nDp i = false)

/-- R292 over all commands: with FATAL = 0 a command on an existing lane is answered exactly when the hold
table releases it, with one response word; while held it changes nothing. -/
def Obligations.CommandsAnswerExactlyWhenReleased : Prop :=
  ∀ (s t : State) (i : Instr), isCommand i = true → wellFormed s.nDp i = true → s.fatal = false →
    exec i s = .next t →
    ((match i with
      | .keyclr => s.kbusy = false ∧ ∀ l ∈ s.lanes, l.dbusy = false
      | .keypush _ => s.kbusy = false ∧ ∀ l ∈ s.lanes, l.dbusy = false
      | .expand => s.kbusy = false ∧ ∀ l ∈ s.lanes, l.dbusy = false
      | .encrypt d => s.kbusy = false ∧ ∀ l, s.lanes[d.toNat]? = some l → l.dbusy = false
      | .doutpop d => ∀ l, s.lanes[d.toNat]? = some l → l.dbusy = false
      | _ => True) → ∃ rsp, t.responses = s.responses ++ [rsp]) ∧
    (¬ (match i with
      | .keyclr => s.kbusy = false ∧ ∀ l ∈ s.lanes, l.dbusy = false
      | .keypush _ => s.kbusy = false ∧ ∀ l ∈ s.lanes, l.dbusy = false
      | .expand => s.kbusy = false ∧ ∀ l ∈ s.lanes, l.dbusy = false
      | .encrypt d => s.kbusy = false ∧ ∀ l, s.lanes[d.toNat]? = some l → l.dbusy = false
      | .doutpop d => ∀ l, s.lanes[d.toNat]? = some l → l.dbusy = false
      | _ => True) → t = s)

/-- R283: from a state that satisfies the invariants with FATAL = 1, no step, a reset among them, changes
anything in the core: only the host's actions, its responses, the turns and the count of steps move. -/
def Obligations.CorruptCoreStaysAtReset : Prop :=
  ∀ s t : State, s.Inv → s.fatal = true → step s = .next t →
    t.fatal = true ∧ AtReset t ∧ t = { s with
      hostActions := t.hostActions, responses := t.responses, schedule := t.schedule, stepCount := t.stepCount }

/-! ## Invariants -/

/-- The invariants of R51 hold right after reset, for every legal configuration. -/
def Obligations.ResetSatisfiesTheInvariants : Prop :=
  ∀ c : Config, c.legal = true → (State.resetWith c).Inv

/-- Section 5 of spec/10_state.md (R51, marked there as derived), with what TEMP holds added (log entry 7): every
step, a reset among them, keeps the invariants (a) to (h), from every state that satisfies them. -/
def Obligations.StepKeepsTheInvariants : Prop :=
  ∀ s t : State, s.Inv → step s = .next t → t.Inv

/-- R306: from a state that satisfies the invariants no step stops; the machine always answers a next state. -/
def Obligations.InvariantStatesNeverStop : Prop :=
  ∀ s : State, s.Inv → ∃ t, step s = .next t

/-- R53, R68: no step changes the configuration: the ROM contents and the number of lanes. -/
def Obligations.ConfigurationNeverChanges : Prop :=
  ∀ s t : State, step s = .next t → t.roms = s.roms ∧ t.lanes.length = s.lanes.length

/-- R81: while a lane is busy no step but a reset changes the schedule or ends the session. -/
def Obligations.ScheduleConstantWhileALaneIsBusy : Prop :=
  ∀ s t : State, s.Inv → (∃ l ∈ s.lanes, l.dbusy = true) → (∀ a ∈ s.hostActions, a.isCommand = true) →
    step s = .next t → t.w = s.w ∧ t.keybuf = s.keybuf ∧ t.kvalid = true

/-! ## What the units compute -/

/-- R164: the schedule's words: round key 0 is the key, and each later word is given by its predecessors. -/
def Obligations.KeyExpansionRecurrence : Prop :=
  ∀ (r : Roms) (k : Block),
    (∀ j : Fin 16, byteOf (wordAt (keyExpansion r k) (j.val / 4)) (j.val % 4) = k[j]) ∧
    (∀ i, 4 ≤ i → i ≤ 43 → wordAt (keyExpansion r k) i =
      wordAt (keyExpansion r k) (i - 4) ^^^
        (if i % 4 = 0 then
          subWord r (rotWord (wordAt (keyExpansion r k) (i - 1))) ^^^ r.rconAt (i / 4)
        else wordAt (keyExpansion r k) (i - 1)))

/-- R142: the laws of the product in GF(2^8), marked there as derived. -/
def Obligations.GmulLaws : Prop :=
  ∀ a b c : Byte, gmul a 0x00#8 = 0x00#8 ∧ gmul a 0x01#8 = a ∧ gmul a 0x02#8 = xtime a ∧
    gmul a 0x03#8 = xtime a ^^^ a ∧ gmul a b = gmul b a ∧ gmul a (b ^^^ c) = gmul a b ^^^ gmul a c

/-- R69, a cross-check from general knowledge: every entry of the fixed S-box is the affine image of the
multiplicative inverse of its index. -/
def Obligations.SboxIsTheInverseConstruction : Prop :=
  ∀ a : Byte, ∃ b : Byte, IsInverse a b ∧ fixedRoms.sboxAt a = sboxAffine b

/-- R178, marked there as derived: from an EXPAND that answers OK, after exactly 110 steps of the KSE, whatever
the other agents do in between (short of a reset), W is KeyExpansion of the key and the engine is idle. -/
def Obligations.ExpansionComputesTheSchedule : Prop :=
  ∀ (s₀ s : State) (turns : List Agent), s₀.Inv → s₀.fatal = false → s₀.kbusy = false →
    (∀ l ∈ s₀.lanes, l.dbusy = false) → s₀.keycnt = 16#5 → exec .expand s₀ = .next s →
    (∀ a ∈ s.hostActions, a.isCommand = true) → turns.count .kse = 109 →
    ∃ t, runAgents (turns ++ [.kse]) s = .next t ∧
      t.kbusy = false ∧ t.kvalid = true ∧ t.w = keyExpansion s₀.roms s₀.keybuf ∧ t.temp = 0#32 ∧
      t.kpc = ⟨0#6, 0#3⟩ ∧ t.keybuf = s₀.keybuf ∧ t.keycnt = s₀.keycnt

/-- R226, marked there as derived: from an ENCRYPT d that answers OK, after exactly 40 steps of lane d, whatever
the other agents do in between (short of a reset), DOUT[d] is the cipher of the block under the schedule and the
lane is idle. -/
def Obligations.TransformComputesTheCipher : Prop :=
  ∀ (s₀ s : State) (d : LaneNo) (l : Lane) (turns : List Agent), s₀.Inv → s₀.fatal = false →
    s₀.kbusy = false → s₀.kvalid = true → s₀.lanes[d.toNat]? = some l → l.dbusy = false → l.dincnt = 16#5 →
    exec (.encrypt d) s₀ = .next s → (∀ a ∈ s.hostActions, a.isCommand = true) →
    turns.count (.lane d) = 39 →
    ∃ t l', runAgents (turns ++ [.lane d]) s = .next t ∧ t.lanes[d.toNat]? = some l' ∧
      l'.dbusy = false ∧ l'.doutvalid = true ∧ l'.doutrd = 0#5 ∧
      l'.dout = cipher s₀.roms l.din (keyExpansion s₀.roms s₀.keybuf) ∧
      l'.s = Vector.replicate 16 0#8 ∧ l'.dpc = ⟨0#4, 0#2⟩

/-- R213, R226: sixteen DOUTPOP d in a row return the sixteen ciphertext bytes in order and leave the buffer
empty. -/
def Obligations.SixteenPopsReturnTheCiphertext : Prop :=
  ∀ (s : State) (d : LaneNo) (l : Lane), s.fatal = false → s.lanes[d.toNat]? = some l → l.dbusy = false →
    l.doutvalid = true → l.doutrd = 0#5 →
    execAll (List.replicate 16 (.doutpop d)) s = .next { s with
      lanes := s.lanes.set d.toNat { l with doutvalid := false, doutrd := 0#5 },
      responses := s.responses ++ l.dout.toList.map fun b => 0x000000#24 ++ b }

/-- R293, marked there as derived: a busy unit ends after at most 110 steps of the KSE, or 40 of the lane. -/
def Obligations.BusyUnitsFinish : Prop :=
  (∀ s : State, s.Inv → s.kbusy = true →
    ∃ n t, n ≤ 110 ∧ runAgents (List.replicate n .kse) s = .next t ∧ t.kbusy = false) ∧
  (∀ (s : State) (d : LaneNo) (l : Lane), s.Inv → s.lanes[d.toNat]? = some l → l.dbusy = true →
    ∃ n t l', n ≤ 40 ∧ runAgents (List.replicate n (.lane d)) s = .next t ∧
      t.lanes[d.toNat]? = some l' ∧ l'.dbusy = false)

/-- R255, marked there as derived: the exposed operation, in the collapsed reading of R342 (log entry 12). A
sixteen-byte key and a sixteen-byte block give the sixteen ciphertext bytes, every response code 0x00. -/
def Obligations.EncryptBlockReturnsTheCiphertext : Prop :=
  ∀ (s : State) (d : LaneNo) (p k : Block), s.Inv → s.fatal = false → d.toNat < s.lanes.length →
    ∃ t, runPseudo (encryptblock d p.toList k.toList) s = .next t ∧
      t.responses = s.responses ++ List.replicate 36 0x00000000#32 ++
        (cipher s.roms p (keyExpansion s.roms k)).toList.map fun b => 0x000000#24 ++ b

/-- R255, in the same reading (log entry 12): a key of another length stops the exposed operation at EXPAND with
E_KEYLEN(min(n, 31)) and no valid schedule; a block of another length stops it at ENCRYPT with E_BLKLEN(min(m,
31)) and the schedule valid. -/
def Obligations.EncryptBlockRejectsWrongLengths : Prop :=
  (∀ (s : State) (d : LaneNo) (p k : List Byte), s.Inv → s.fatal = false → d.toNat < s.lanes.length →
    k.length ≠ 16 →
    ∃ t, runPseudo (encryptblock d p k) s = .next t ∧ t.kvalid = false ∧
      t.responses = s.responses ++ List.replicate (1 + k.length) 0x00000000#32 ++
        [0x01000000#32 ||| BitVec.ofNat 32 (min k.length 31)]) ∧
  (∀ (s : State) (d : LaneNo) (p : List Byte) (k : Block), s.Inv → s.fatal = false →
    d.toNat < s.lanes.length → p.length ≠ 16 →
    ∃ t, runPseudo (encryptblock d p k.toList) s = .next t ∧ t.kvalid = true ∧
      t.responses = s.responses ++ List.replicate (19 + p.length) 0x00000000#32 ++
        [0x02000000#32 ||| BitVec.ofNat 32 (min p.length 31)])

/-- R179: while the schedule is valid, `ENCRYPTNEXT d, p` gives the ciphertext of its block under the key that
was expanded, in the collapsed reading of R342 (log entry 12), and leaves the key, the schedule and its validity
as they were. -/
def Obligations.EncryptNextReusesTheSchedule : Prop :=
  ∀ (s : State) (d : LaneNo) (p : Block), s.Inv → s.fatal = false → d.toNat < s.lanes.length → s.kvalid = true →
    ∃ t, runPseudo (encryptnext d p.toList) s = .next t ∧
      t.kvalid = true ∧ t.w = s.w ∧ t.keybuf = s.keybuf ∧
      t.responses = s.responses ++ List.replicate 18 0x00000000#32 ++
        (cipher s.roms p (keyExpansion s.roms s.keybuf)).toList.map fun b => 0x000000#24 ++ b

/-- R126, R293: `WAITK` ends after at most 110 polls with the engine idle, and `WAITD d` of an existing lane after
at most 40 with the lane idle, when the unit takes one step between polls (log entry 12). -/
def Obligations.WaitingPollsEnd : Prop :=
  (∀ s : State, s.Inv →
    ∃ t rsp, waitk 110 s = .next t ∧ t.kbusy = false ∧ t.responses.getLast? = some rsp ∧ pollEnds rsp = true) ∧
  (∀ (s : State) (d : LaneNo), s.Inv → d.toNat < s.lanes.length →
    ∃ t l rsp, waitd d 40 s = .next t ∧ t.lanes[d.toNat]? = some l ∧ l.dbusy = false ∧
      t.responses.getLast? = some rsp ∧ pollEnds rsp = true)

/-! ## Concurrency and noninterference -/

/-- R80 (d), marked there as derived: two enabled steps of different agents, the host's being an accepted
command other than KSTAT and DSTAT, reach the same state in either order. -/
def Obligations.StepsOfDifferentAgentsCommute : Prop :=
  ∀ (s : State) (a b : Agent), s.Inv → a ≠ b → enabled a s = true → enabled b s = true →
    (a = .host ∨ b = .host → ∃ w acts, s.hostActions = .command w :: acts ∧ wordHeld w s = false ∧
      decode s.nDp (.command w) ≠ .instr .kstat ∧ ∀ d, decode s.nDp (.command w) ≠ .instr (.dstat d)) →
    ∃ u v t, agentStep a s = .next u ∧ agentStep b u = .next t ∧
      agentStep b s = .next v ∧ agentStep a v = .next t

/-- R344: which agent steps, what is held, which codes are answered and how the sequencers move do not depend
on any key, block, state or schedule byte. -/
def Obligations.ControlFlowIndependentOfData : Prop :=
  ∀ s t s' : State, ControlEq s t → step s = .next s' → ∃ t', step t = .next t' ∧ ControlEq s' t'

/-- R50, marked there as derived: no command distinguishes two states that differ only in the hidden items: it
answers the same word in both, and they stay indistinguishable. -/
def Obligations.HiddenStateIsNotObservable : Prop :=
  ∀ (s t s' : State) (i : Instr), isCommand i = true → VisibleEq s t → exec i s = .next s' →
    ∃ t', exec i t = .next t' ∧ VisibleEq s' t'
end

