-- ==== Sys2Proof/Laws/Decode.lean ====
section
/-! SUPPORT. The fields of an encoded word, and what decoding can answer. -/

namespace Sys2Proof

@[simp] theorem fieldOp_commandWord (op : BitVec 8) (d : LaneNo) (b : Byte) :
    fieldOp (commandWord op d b) = op := by
  unfold fieldOp commandWord
  rw [BitVec.extractLsb'_append_eq_of_le (by omega), BitVec.extractLsb'_append_eq_of_le (by omega),
    BitVec.extractLsb'_append_eq_of_le (by omega)]
  simp

@[simp] theorem fieldLane_commandWord (op : BitVec 8) (d : LaneNo) (b : Byte) :
    fieldLane (commandWord op d b) = d := by
  unfold fieldLane commandWord
  rw [BitVec.extractLsb'_append_eq_of_le (by omega), BitVec.extractLsb'_append_eq_of_le (by omega),
    BitVec.extractLsb'_append_eq_of_add_le (by omega)]
  simp

@[simp] theorem fieldMbz_commandWord (op : BitVec 8) (d : LaneNo) (b : Byte) :
    fieldMbz (commandWord op d b) = 0#8 := by
  unfold fieldMbz commandWord
  rw [BitVec.extractLsb'_append_eq_of_le (by omega), BitVec.extractLsb'_append_eq_of_add_le (by omega)]
  simp

@[simp] theorem fieldImm_commandWord (op : BitVec 8) (d : LaneNo) (b : Byte) :
    fieldImm (commandWord op d b) = b := by
  unfold fieldImm commandWord
  rw [BitVec.extractLsb'_append_eq_of_add_le (by omega)]
  simp

/-- A word with a zero `mbz` is the word of its own fields. -/
theorem commandWord_fields (w : Word) (h : fieldMbz w = 0#8) :
    commandWord (fieldOp w) (fieldLane w) (fieldImm w) = w := by
  unfold commandWord
  rw [← h]
  apply BitVec.eq_of_getLsbD_eq
  intro i hi
  simp only [fieldOp, fieldLane, fieldMbz, fieldImm, BitVec.getLsbD_extractLsb', BitVec.getLsbD_append]
  interval_cases i <;> simp

@[simp] theorem kidx_kpcBits (r : BitVec 6) (ph : BitVec 3) : (kpcBits r ph).extractLsb' 3 6 = r := by
  unfold kpcBits
  rw [BitVec.extractLsb'_append_eq_of_le (by omega)]
  simp

@[simp] theorem kph_kpcBits (r : BitVec 6) (ph : BitVec 3) : (kpcBits r ph).extractLsb' 0 3 = ph := by
  unfold kpcBits
  rw [BitVec.extractLsb'_append_eq_of_add_le (by omega)]
  simp

theorem kpcBits_fields (v : BitVec 9) : kpcBits (v.extractLsb' 3 6) (v.extractLsb' 0 3) = v := by
  apply BitVec.eq_of_getLsbD_eq
  intro i hi
  simp only [kpcBits, BitVec.getLsbD_extractLsb', BitVec.getLsbD_append]
  interval_cases i <;> simp

@[simp] theorem rnd_dpcBits (n : BitVec 4) (ph : BitVec 2) : (dpcBits n ph).extractLsb' 2 4 = n := by
  unfold dpcBits
  rw [BitVec.extractLsb'_append_eq_of_le (by omega)]
  simp

@[simp] theorem ph_dpcBits (n : BitVec 4) (ph : BitVec 2) : (dpcBits n ph).extractLsb' 0 2 = ph := by
  unfold dpcBits
  rw [BitVec.extractLsb'_append_eq_of_add_le (by omega)]
  simp

theorem dpcBits_fields (v : BitVec 6) : dpcBits (v.extractLsb' 2 4) (v.extractLsb' 0 2) = v := by
  apply BitVec.eq_of_getLsbD_eq
  intro i hi
  simp only [dpcBits, BitVec.getLsbD_extractLsb', BitVec.getLsbD_append]
  interval_cases i <;> simp

@[simp] theorem toOption_eq_some (x : Decoded) (i : Instr) : x.toOption = some i ↔ x = .instr i := by
  cases x <;> simp [Decoded.toOption]

@[simp] theorem microIf_eq_instr (legal : Bool) (i j : Instr) :
    microIf legal i = .instr j ↔ legal = true ∧ j = i := by
  unfold microIf
  split <;> simp_all [eq_comm]

/-- What a word that is a command satisfies (R110). -/
theorem decodeCommand_eq_instr {nDp : Nat} {w : Word} {i : Instr} (h : decodeCommand nDp w = .instr i) :
    fieldMbz w = 0#8 ∧ ∃ f, commandOf (fieldOp w) (fieldLane w) (fieldImm w) = some (f, i) ∧
      (f.noLane = true → fieldLane w = 0#8) ∧ (f.noImm = true → fieldImm w = 0#8) ∧
      (f.noLane = false → laneLegal nDp (fieldLane w) = true) := by
  unfold decodeCommand at h
  split at h
  · cases h
  · rename_i hm
    refine ⟨by simpa using hm, ?_⟩
    split at h
    · cases h
    · rename_i f j hc
      split_ifs at h with h1 h2 h3
      cases h
      refine ⟨f, hc, ?_, ?_, ?_⟩ <;> intro hn <;> simp_all

/-- What the KSE's sequencer value can select. -/
theorem decodeKpc_eq_instr (r : BitVec 6) (ph : BitVec 3) (i : Instr) :
    decodeKpc (kpcBits r ph) = .instr i ↔
      (ph = 0#3 ∧ kidxLegal r = true ∧ i = .kld r) ∨ (ph = 1#3 ∧ kidxRoundLegal r = true ∧ i = .krot r) ∨
      (ph = 2#3 ∧ kidxRoundLegal r = true ∧ i = .ksub r) ∨ (ph = 3#3 ∧ kidxRoundLegal r = true ∧ i = .krc r) ∨
      (ph = 4#3 ∧ kidxLegal r = true ∧ i = .kst r) := by
  unfold decodeKpc
  simp only [kidx_kpcBits, kph_kpcBits]
  by_cases h0 : ph = 0#3
  · subst h0; simp
  by_cases h1 : ph = 1#3
  · subst h1; simp
  by_cases h2 : ph = 2#3
  · subst h2; simp
  by_cases h3 : ph = 3#3
  · subst h3; simp
  by_cases h4 : ph = 4#3
  · subst h4; simp
  simp [h0, h1, h2, h3, h4]

/-- What lane `d`'s sequencer value can select. -/
theorem decodeDpc_eq_instr (d : LaneNo) (n : BitVec 4) (ph : BitVec 2) (i : Instr) :
    decodeDpc d (dpcBits n ph) = .instr i ↔
      (ph = 0#2 ∧ rndLegal n = true ∧ i = .sb d n) ∨ (ph = 1#2 ∧ rndLegal n = true ∧ i = .sr d n) ∨
      (ph = 2#2 ∧ rndMixLegal n = true ∧ i = .mc d n) ∨ (ph = 3#2 ∧ rndKeyLegal n = true ∧ i = .ark d n) := by
  unfold decodeDpc
  simp only [rnd_dpcBits, ph_dpcBits]
  by_cases h0 : ph = 0#2
  · subst h0; simp
  by_cases h1 : ph = 1#2
  · subst h1; simp
  by_cases h2 : ph = 2#2
  · subst h2; simp
  have h3 : ph = 3#2 := by
    revert h0 h1 h2
    revert ph
    decide
  subst h3
  simp

end Sys2Proof
end

