-- ==== Sys2Proof/Laws/Operands.lean ====
section
/-! SUPPORT. What the operand forms can do: reads after writes of the schedule and of the byte buffers, and
the packing of words. -/

namespace Sys2Proof.Machine

/-! ## The schedule -/

theorem wordAt_eq_getElem (w : Schedule) (i : Nat) (h : i < 44) : wordAt w i = w[i] := by
  simp [wordAt, h]

theorem wordAt_of_ge (w : Schedule) (i : Nat) (h : 44 ≤ i) : wordAt w i = 0#32 := by
  simp [wordAt, Vector.getElem?_eq_none h]

theorem wordAt_setWord (w : Schedule) (i j : Nat) (v : Word) (h : i < 44) :
    wordAt (setWord w i v) j = if i = j then v else wordAt w j := by
  unfold wordAt setWord
  rw [Vector.getElem?_setIfInBounds]
  split <;> simp_all

theorem wordAt_setWord_ne (w : Schedule) (i j : Nat) (v : Word) (h : i ≠ j) :
    wordAt (setWord w i v) j = wordAt w j := by
  unfold wordAt setWord
  rw [Vector.getElem?_setIfInBounds, if_neg h]

theorem wordAt_setWord_self (w : Schedule) (i : Nat) (v : Word) (h : i < 44) : wordAt (setWord w i v) i = v := by
  rw [wordAt_setWord w i i v h, if_pos rfl]

/-- Two schedules with the same forty-four words are equal. -/
theorem schedule_ext {a b : Schedule} (h : ∀ i, i < 44 → wordAt a i = wordAt b i) : a = b := by
  ext i hi
  have := h i hi
  rw [wordAt_eq_getElem a i hi, wordAt_eq_getElem b i hi] at this
  rw [this]

@[simp] theorem wordAt_zeroSchedule (i : Nat) : wordAt zeroSchedule i = 0#32 := by
  unfold wordAt zeroSchedule
  by_cases h : i < 44
  · simp [h]
  · simp [Vector.getElem?_eq_none (by omega : 44 ≤ i)]

theorem wordAt_loadKeyWords_of_ge (k : Block) (w : Schedule) (j : Nat) (h : 4 ≤ j) :
    wordAt (loadKeyWords k w) j = wordAt w j := by
  unfold loadKeyWords
  rw [wordAt_setWord_ne _ _ _ _ (by omega), wordAt_setWord_ne _ _ _ _ (by omega),
    wordAt_setWord_ne _ _ _ _ (by omega), wordAt_setWord_ne _ _ _ _ (by omega)]

theorem wordAt_loadKeyWords (k : Block) (w : Schedule) (i : Fin 4) :
    wordAt (loadKeyWords k w) i = keyWord k i := by
  unfold loadKeyWords
  match i with
  | 0 => simp [wordAt_setWord]
  | 1 => simp [wordAt_setWord]
  | 2 => simp [wordAt_setWord]
  | 3 => simp [wordAt_setWord]

/-! ## Packing -/

@[simp] theorem byteOf_packWord_zero (b0 b1 b2 b3 : Byte) : byteOf (packWord b0 b1 b2 b3) 0 = b0 := by
  unfold byteOf packWord
  rw [BitVec.extractLsb'_append_eq_of_le (by omega), BitVec.extractLsb'_append_eq_of_le (by omega),
    BitVec.extractLsb'_append_eq_of_le (by omega)]
  simp

@[simp] theorem byteOf_packWord_one (b0 b1 b2 b3 : Byte) : byteOf (packWord b0 b1 b2 b3) 1 = b1 := by
  unfold byteOf packWord
  rw [BitVec.extractLsb'_append_eq_of_le (by omega), BitVec.extractLsb'_append_eq_of_le (by omega),
    BitVec.extractLsb'_append_eq_of_add_le (by omega)]
  simp

@[simp] theorem byteOf_packWord_two (b0 b1 b2 b3 : Byte) : byteOf (packWord b0 b1 b2 b3) 2 = b2 := by
  unfold byteOf packWord
  rw [BitVec.extractLsb'_append_eq_of_le (by omega), BitVec.extractLsb'_append_eq_of_add_le (by omega)]
  simp

@[simp] theorem byteOf_packWord_three (b0 b1 b2 b3 : Byte) : byteOf (packWord b0 b1 b2 b3) 3 = b3 := by
  unfold byteOf packWord
  rw [BitVec.extractLsb'_append_eq_of_add_le (by omega)]
  simp

/-- A word is the packing of its four bytes. -/
theorem packWord_byteOf (w : Word) : packWord (byteOf w 0) (byteOf w 1) (byteOf w 2) (byteOf w 3) = w := by
  apply BitVec.eq_of_getLsbD_eq
  intro i hi
  simp only [byteOf, packWord, BitVec.getLsbD_extractLsb', BitVec.getLsbD_append]
  interval_cases i <;> simp

/-! ## Byte buffers -/

/-- After a push, byte `j` is the pushed byte at the index the core keeps, and as before elsewhere. -/
theorem pushByte_getElem (buf : Block) (c : BitVec 5) (b : Byte) (j : Nat) (hj : j < 16) :
    (pushByte buf c b)[j] = if j = c.toNat then b else buf[j] := by
  unfold pushByte
  split
  · rename_i h
    rw [Vector.getElem_set]
    simp only [eq_comm]
  · rw [if_neg (by omega)]

@[simp] theorem zeroBlock_eq : zeroBlock = Vector.replicate 16 0#8 := rfl

@[simp] theorem zeroSchedule_eq : zeroSchedule = Vector.replicate 44 0#32 := rfl

end Sys2Proof.Machine
end

