-- ==== Sys2Proof/Laws/State.lean ====
section
/-! SUPPORT. The field of each update of State and of Lane: one lemma per field per update, true by
rfl, so that no later proof unfolds a record update. -/

namespace Sys2Proof.Machine

section answer
variable (s : State) (rsp : Word)
@[simp] theorem State.answer_roms : (s.answer rsp).roms = s.roms := rfl
@[simp] theorem State.answer_lanes : (s.answer rsp).lanes = s.lanes := rfl
@[simp] theorem State.answer_keybuf : (s.answer rsp).keybuf = s.keybuf := rfl
@[simp] theorem State.answer_keycnt : (s.answer rsp).keycnt = s.keycnt := rfl
@[simp] theorem State.answer_w : (s.answer rsp).w = s.w := rfl
@[simp] theorem State.answer_kvalid : (s.answer rsp).kvalid = s.kvalid := rfl
@[simp] theorem State.answer_kbusy : (s.answer rsp).kbusy = s.kbusy := rfl
@[simp] theorem State.answer_fatal : (s.answer rsp).fatal = s.fatal := rfl
@[simp] theorem State.answer_temp : (s.answer rsp).temp = s.temp := rfl
@[simp] theorem State.answer_kpc : (s.answer rsp).kpc = s.kpc := rfl
@[simp] theorem State.answer_hostActions : (s.answer rsp).hostActions = s.hostActions := rfl
@[simp] theorem State.answer_responses : (s.answer rsp).responses = s.responses ++ [rsp] := rfl
@[simp] theorem State.answer_schedule : (s.answer rsp).schedule = s.schedule := rfl
@[simp] theorem State.answer_stepCount : (s.answer rsp).stepCount = s.stepCount := rfl
end answer

section setLane
variable (s : State) (d : LaneNo) (l : Lane)
@[simp] theorem State.setLane_roms : (s.setLane d l).roms = s.roms := rfl
@[simp] theorem State.setLane_lanes : (s.setLane d l).lanes = s.lanes.set d.toNat l := rfl
@[simp] theorem State.setLane_keybuf : (s.setLane d l).keybuf = s.keybuf := rfl
@[simp] theorem State.setLane_keycnt : (s.setLane d l).keycnt = s.keycnt := rfl
@[simp] theorem State.setLane_w : (s.setLane d l).w = s.w := rfl
@[simp] theorem State.setLane_kvalid : (s.setLane d l).kvalid = s.kvalid := rfl
@[simp] theorem State.setLane_kbusy : (s.setLane d l).kbusy = s.kbusy := rfl
@[simp] theorem State.setLane_fatal : (s.setLane d l).fatal = s.fatal := rfl
@[simp] theorem State.setLane_temp : (s.setLane d l).temp = s.temp := rfl
@[simp] theorem State.setLane_kpc : (s.setLane d l).kpc = s.kpc := rfl
@[simp] theorem State.setLane_hostActions : (s.setLane d l).hostActions = s.hostActions := rfl
@[simp] theorem State.setLane_responses : (s.setLane d l).responses = s.responses := rfl
@[simp] theorem State.setLane_schedule : (s.setLane d l).schedule = s.schedule := rfl
@[simp] theorem State.setLane_stepCount : (s.setLane d l).stepCount = s.stepCount := rfl
end setLane

section clearKeySide
variable (s : State)
@[simp] theorem State.clearKeySide_roms : s.clearKeySide.roms = s.roms := rfl
@[simp] theorem State.clearKeySide_lanes : s.clearKeySide.lanes = s.lanes := rfl
@[simp] theorem State.clearKeySide_keybuf : s.clearKeySide.keybuf = zeroBlock := rfl
@[simp] theorem State.clearKeySide_keycnt : s.clearKeySide.keycnt = 0#5 := rfl
@[simp] theorem State.clearKeySide_w : s.clearKeySide.w = zeroSchedule := rfl
@[simp] theorem State.clearKeySide_kvalid : s.clearKeySide.kvalid = false := rfl
@[simp] theorem State.clearKeySide_kbusy : s.clearKeySide.kbusy = s.kbusy := rfl
@[simp] theorem State.clearKeySide_fatal : s.clearKeySide.fatal = s.fatal := rfl
@[simp] theorem State.clearKeySide_temp : s.clearKeySide.temp = 0#32 := rfl
@[simp] theorem State.clearKeySide_kpc : s.clearKeySide.kpc = s.kpc := rfl
@[simp] theorem State.clearKeySide_hostActions : s.clearKeySide.hostActions = s.hostActions := rfl
@[simp] theorem State.clearKeySide_responses : s.clearKeySide.responses = s.responses := rfl
@[simp] theorem State.clearKeySide_schedule : s.clearKeySide.schedule = s.schedule := rfl
@[simp] theorem State.clearKeySide_stepCount : s.clearKeySide.stepCount = s.stepCount := rfl
end clearKeySide

section pushKey
variable (s : State) (b : Byte)
@[simp] theorem State.pushKey_roms : (s.pushKey b).roms = s.roms := rfl
@[simp] theorem State.pushKey_lanes : (s.pushKey b).lanes = s.lanes := rfl
@[simp] theorem State.pushKey_keybuf : (s.pushKey b).keybuf = pushByte s.keybuf s.keycnt b := rfl
@[simp] theorem State.pushKey_keycnt : (s.pushKey b).keycnt = satInc s.keycnt := rfl
@[simp] theorem State.pushKey_w : (s.pushKey b).w = s.w := rfl
@[simp] theorem State.pushKey_kvalid : (s.pushKey b).kvalid = false := rfl
@[simp] theorem State.pushKey_kbusy : (s.pushKey b).kbusy = s.kbusy := rfl
@[simp] theorem State.pushKey_fatal : (s.pushKey b).fatal = s.fatal := rfl
@[simp] theorem State.pushKey_temp : (s.pushKey b).temp = s.temp := rfl
@[simp] theorem State.pushKey_kpc : (s.pushKey b).kpc = s.kpc := rfl
@[simp] theorem State.pushKey_hostActions : (s.pushKey b).hostActions = s.hostActions := rfl
@[simp] theorem State.pushKey_responses : (s.pushKey b).responses = s.responses := rfl
@[simp] theorem State.pushKey_schedule : (s.pushKey b).schedule = s.schedule := rfl
@[simp] theorem State.pushKey_stepCount : (s.pushKey b).stepCount = s.stepCount := rfl
end pushKey

section beginExpansion
variable (s : State)
@[simp] theorem State.beginExpansion_roms : s.beginExpansion.roms = s.roms := by unfold State.beginExpansion; rfl
@[simp] theorem State.beginExpansion_lanes : s.beginExpansion.lanes = s.lanes := by unfold State.beginExpansion; rfl
@[simp] theorem State.beginExpansion_keybuf : s.beginExpansion.keybuf = s.keybuf := by unfold State.beginExpansion; rfl
@[simp] theorem State.beginExpansion_keycnt : s.beginExpansion.keycnt = s.keycnt := by unfold State.beginExpansion; rfl
@[simp] theorem State.beginExpansion_w : s.beginExpansion.w = loadKeyWords s.keybuf s.w := by unfold State.beginExpansion; rfl
@[simp] theorem State.beginExpansion_kvalid : s.beginExpansion.kvalid = false := by unfold State.beginExpansion; rfl
@[simp] theorem State.beginExpansion_kbusy : s.beginExpansion.kbusy = true := by unfold State.beginExpansion; rfl
@[simp] theorem State.beginExpansion_fatal : s.beginExpansion.fatal = s.fatal := by unfold State.beginExpansion; rfl
@[simp] theorem State.beginExpansion_temp : s.beginExpansion.temp = s.temp := by unfold State.beginExpansion; rfl
@[simp] theorem State.beginExpansion_kpc : s.beginExpansion.kpc = ⟨4#6, 0#3⟩ := by unfold State.beginExpansion; rfl
@[simp] theorem State.beginExpansion_hostActions : s.beginExpansion.hostActions = s.hostActions := by unfold State.beginExpansion; rfl
@[simp] theorem State.beginExpansion_responses : s.beginExpansion.responses = s.responses := by unfold State.beginExpansion; rfl
@[simp] theorem State.beginExpansion_schedule : s.beginExpansion.schedule = s.schedule := by unfold State.beginExpansion; rfl
@[simp] theorem State.beginExpansion_stepCount : s.beginExpansion.stepCount = s.stepCount := by unfold State.beginExpansion; rfl
end beginExpansion

section setTemp
variable (s : State) (t : Word) (k : Kpc)
@[simp] theorem State.setTemp_roms : (s.setTemp t k).roms = s.roms := rfl
@[simp] theorem State.setTemp_lanes : (s.setTemp t k).lanes = s.lanes := rfl
@[simp] theorem State.setTemp_keybuf : (s.setTemp t k).keybuf = s.keybuf := rfl
@[simp] theorem State.setTemp_keycnt : (s.setTemp t k).keycnt = s.keycnt := rfl
@[simp] theorem State.setTemp_w : (s.setTemp t k).w = s.w := rfl
@[simp] theorem State.setTemp_kvalid : (s.setTemp t k).kvalid = s.kvalid := rfl
@[simp] theorem State.setTemp_kbusy : (s.setTemp t k).kbusy = s.kbusy := rfl
@[simp] theorem State.setTemp_fatal : (s.setTemp t k).fatal = s.fatal := rfl
@[simp] theorem State.setTemp_temp : (s.setTemp t k).temp = t := rfl
@[simp] theorem State.setTemp_kpc : (s.setTemp t k).kpc = k := rfl
@[simp] theorem State.setTemp_hostActions : (s.setTemp t k).hostActions = s.hostActions := rfl
@[simp] theorem State.setTemp_responses : (s.setTemp t k).responses = s.responses := rfl
@[simp] theorem State.setTemp_schedule : (s.setTemp t k).schedule = s.schedule := rfl
@[simp] theorem State.setTemp_stepCount : (s.setTemp t k).stepCount = s.stepCount := rfl
end setTemp

section storeWord
variable (s : State) (i : Nat) (v : Word) (k : Kpc)
@[simp] theorem State.storeWord_roms : (s.storeWord i v k).roms = s.roms := rfl
@[simp] theorem State.storeWord_lanes : (s.storeWord i v k).lanes = s.lanes := rfl
@[simp] theorem State.storeWord_keybuf : (s.storeWord i v k).keybuf = s.keybuf := rfl
@[simp] theorem State.storeWord_keycnt : (s.storeWord i v k).keycnt = s.keycnt := rfl
@[simp] theorem State.storeWord_w : (s.storeWord i v k).w = setWord s.w i v := rfl
@[simp] theorem State.storeWord_kvalid : (s.storeWord i v k).kvalid = s.kvalid := rfl
@[simp] theorem State.storeWord_kbusy : (s.storeWord i v k).kbusy = s.kbusy := rfl
@[simp] theorem State.storeWord_fatal : (s.storeWord i v k).fatal = s.fatal := rfl
@[simp] theorem State.storeWord_temp : (s.storeWord i v k).temp = s.temp := rfl
@[simp] theorem State.storeWord_kpc : (s.storeWord i v k).kpc = k := rfl
@[simp] theorem State.storeWord_hostActions : (s.storeWord i v k).hostActions = s.hostActions := rfl
@[simp] theorem State.storeWord_responses : (s.storeWord i v k).responses = s.responses := rfl
@[simp] theorem State.storeWord_schedule : (s.storeWord i v k).schedule = s.schedule := rfl
@[simp] theorem State.storeWord_stepCount : (s.storeWord i v k).stepCount = s.stepCount := rfl
end storeWord

section endExpansion
variable (s : State) (i : Nat) (v : Word)
@[simp] theorem State.endExpansion_roms : (s.endExpansion i v).roms = s.roms := rfl
@[simp] theorem State.endExpansion_lanes : (s.endExpansion i v).lanes = s.lanes := rfl
@[simp] theorem State.endExpansion_keybuf : (s.endExpansion i v).keybuf = s.keybuf := rfl
@[simp] theorem State.endExpansion_keycnt : (s.endExpansion i v).keycnt = s.keycnt := rfl
@[simp] theorem State.endExpansion_w : (s.endExpansion i v).w = setWord s.w i v := rfl
@[simp] theorem State.endExpansion_kvalid : (s.endExpansion i v).kvalid = true := rfl
@[simp] theorem State.endExpansion_kbusy : (s.endExpansion i v).kbusy = false := rfl
@[simp] theorem State.endExpansion_fatal : (s.endExpansion i v).fatal = s.fatal := rfl
@[simp] theorem State.endExpansion_temp : (s.endExpansion i v).temp = 0#32 := rfl
@[simp] theorem State.endExpansion_kpc : (s.endExpansion i v).kpc = ⟨0#6, 0#3⟩ := rfl
@[simp] theorem State.endExpansion_hostActions : (s.endExpansion i v).hostActions = s.hostActions := rfl
@[simp] theorem State.endExpansion_responses : (s.endExpansion i v).responses = s.responses := rfl
@[simp] theorem State.endExpansion_schedule : (s.endExpansion i v).schedule = s.schedule := rfl
@[simp] theorem State.endExpansion_stepCount : (s.endExpansion i v).stepCount = s.stepCount := rfl
end endExpansion

section setHost
variable (s : State) (rest : List HostAction)
@[simp] theorem State.setHost_roms : (s.setHost rest).roms = s.roms := rfl
@[simp] theorem State.setHost_lanes : (s.setHost rest).lanes = s.lanes := rfl
@[simp] theorem State.setHost_keybuf : (s.setHost rest).keybuf = s.keybuf := rfl
@[simp] theorem State.setHost_keycnt : (s.setHost rest).keycnt = s.keycnt := rfl
@[simp] theorem State.setHost_w : (s.setHost rest).w = s.w := rfl
@[simp] theorem State.setHost_kvalid : (s.setHost rest).kvalid = s.kvalid := rfl
@[simp] theorem State.setHost_kbusy : (s.setHost rest).kbusy = s.kbusy := rfl
@[simp] theorem State.setHost_fatal : (s.setHost rest).fatal = s.fatal := rfl
@[simp] theorem State.setHost_temp : (s.setHost rest).temp = s.temp := rfl
@[simp] theorem State.setHost_kpc : (s.setHost rest).kpc = s.kpc := rfl
@[simp] theorem State.setHost_hostActions : (s.setHost rest).hostActions = rest := rfl
@[simp] theorem State.setHost_responses : (s.setHost rest).responses = s.responses := rfl
@[simp] theorem State.setHost_schedule : (s.setHost rest).schedule = s.schedule := rfl
@[simp] theorem State.setHost_stepCount : (s.setHost rest).stepCount = s.stepCount := rfl
end setHost

section tick
variable (s : State)
@[simp] theorem State.tick_roms : s.tick.roms = s.roms := rfl
@[simp] theorem State.tick_lanes : s.tick.lanes = s.lanes := rfl
@[simp] theorem State.tick_keybuf : s.tick.keybuf = s.keybuf := rfl
@[simp] theorem State.tick_keycnt : s.tick.keycnt = s.keycnt := rfl
@[simp] theorem State.tick_w : s.tick.w = s.w := rfl
@[simp] theorem State.tick_kvalid : s.tick.kvalid = s.kvalid := rfl
@[simp] theorem State.tick_kbusy : s.tick.kbusy = s.kbusy := rfl
@[simp] theorem State.tick_fatal : s.tick.fatal = s.fatal := rfl
@[simp] theorem State.tick_temp : s.tick.temp = s.temp := rfl
@[simp] theorem State.tick_kpc : s.tick.kpc = s.kpc := rfl
@[simp] theorem State.tick_hostActions : s.tick.hostActions = s.hostActions := rfl
@[simp] theorem State.tick_responses : s.tick.responses = s.responses := rfl
@[simp] theorem State.tick_schedule : s.tick.schedule = s.schedule.tail := rfl
@[simp] theorem State.tick_stepCount : s.tick.stepCount = s.stepCount + 1 := rfl
end tick

section hardwareReset
variable (s : State)
@[simp] theorem State.hardwareReset_roms : s.hardwareReset.roms = s.roms := rfl
@[simp] theorem State.hardwareReset_lanes : s.hardwareReset.lanes = List.replicate s.nDp Lane.reset := rfl
@[simp] theorem State.hardwareReset_keybuf : s.hardwareReset.keybuf = Vector.replicate 16 0#8 := rfl
@[simp] theorem State.hardwareReset_keycnt : s.hardwareReset.keycnt = 0#5 := rfl
@[simp] theorem State.hardwareReset_w : s.hardwareReset.w = Vector.replicate 44 0#32 := rfl
@[simp] theorem State.hardwareReset_kvalid : s.hardwareReset.kvalid = false := rfl
@[simp] theorem State.hardwareReset_kbusy : s.hardwareReset.kbusy = false := rfl
@[simp] theorem State.hardwareReset_fatal : s.hardwareReset.fatal = (!tablesOk s.roms) := rfl
@[simp] theorem State.hardwareReset_temp : s.hardwareReset.temp = 0#32 := rfl
@[simp] theorem State.hardwareReset_kpc : s.hardwareReset.kpc = ⟨0#6, 0#3⟩ := rfl
@[simp] theorem State.hardwareReset_hostActions : s.hardwareReset.hostActions = s.hostActions := rfl
@[simp] theorem State.hardwareReset_responses : s.hardwareReset.responses = s.responses := rfl
@[simp] theorem State.hardwareReset_schedule : s.hardwareReset.schedule = s.schedule := rfl
@[simp] theorem State.hardwareReset_stepCount : s.hardwareReset.stepCount = s.stepCount := rfl
end hardwareReset

section resetWith
variable (c : Config)
@[simp] theorem State.resetWith_roms : (State.resetWith c).roms = c.roms := rfl
@[simp] theorem State.resetWith_lanes : (State.resetWith c).lanes = List.replicate c.nDp Lane.reset := rfl
@[simp] theorem State.resetWith_keybuf : (State.resetWith c).keybuf = Vector.replicate 16 0#8 := rfl
@[simp] theorem State.resetWith_keycnt : (State.resetWith c).keycnt = 0#5 := rfl
@[simp] theorem State.resetWith_w : (State.resetWith c).w = Vector.replicate 44 0#32 := rfl
@[simp] theorem State.resetWith_kvalid : (State.resetWith c).kvalid = false := rfl
@[simp] theorem State.resetWith_kbusy : (State.resetWith c).kbusy = false := rfl
@[simp] theorem State.resetWith_fatal : (State.resetWith c).fatal = (!tablesOk c.roms) := rfl
@[simp] theorem State.resetWith_temp : (State.resetWith c).temp = 0#32 := rfl
@[simp] theorem State.resetWith_kpc : (State.resetWith c).kpc = ⟨0#6, 0#3⟩ := rfl
@[simp] theorem State.resetWith_hostActions : (State.resetWith c).hostActions = [] := rfl
@[simp] theorem State.resetWith_responses : (State.resetWith c).responses = [] := rfl
@[simp] theorem State.resetWith_schedule : (State.resetWith c).schedule = [] := rfl
@[simp] theorem State.resetWith_stepCount : (State.resetWith c).stepCount = 0 := rfl
end resetWith

section Lane_clearIn
variable (l : Lane)
@[simp] theorem Lane.clearIn_din : l.clearIn.din = zeroBlock := rfl
@[simp] theorem Lane.clearIn_dincnt : l.clearIn.dincnt = 0#5 := rfl
@[simp] theorem Lane.clearIn_s : l.clearIn.s = l.s := rfl
@[simp] theorem Lane.clearIn_dout : l.clearIn.dout = l.dout := rfl
@[simp] theorem Lane.clearIn_doutvalid : l.clearIn.doutvalid = l.doutvalid := rfl
@[simp] theorem Lane.clearIn_doutrd : l.clearIn.doutrd = l.doutrd := rfl
@[simp] theorem Lane.clearIn_dbusy : l.clearIn.dbusy = l.dbusy := rfl
@[simp] theorem Lane.clearIn_dpc : l.clearIn.dpc = l.dpc := rfl
end Lane_clearIn

section Lane_push
variable (l : Lane) (b : Byte)
@[simp] theorem Lane.push_din : (l.push b).din = pushByte l.din l.dincnt b := rfl
@[simp] theorem Lane.push_dincnt : (l.push b).dincnt = satInc l.dincnt := rfl
@[simp] theorem Lane.push_s : (l.push b).s = l.s := rfl
@[simp] theorem Lane.push_dout : (l.push b).dout = l.dout := rfl
@[simp] theorem Lane.push_doutvalid : (l.push b).doutvalid = l.doutvalid := rfl
@[simp] theorem Lane.push_doutrd : (l.push b).doutrd = l.doutrd := rfl
@[simp] theorem Lane.push_dbusy : (l.push b).dbusy = l.dbusy := rfl
@[simp] theorem Lane.push_dpc : (l.push b).dpc = l.dpc := rfl
end Lane_push

section Lane_start
variable (l : Lane)
@[simp] theorem Lane.start_din : l.start.din = l.din := rfl
@[simp] theorem Lane.start_dincnt : l.start.dincnt = 0#5 := rfl
@[simp] theorem Lane.start_s : l.start.s = l.din := rfl
@[simp] theorem Lane.start_dout : l.start.dout = l.dout := rfl
@[simp] theorem Lane.start_doutvalid : l.start.doutvalid = false := rfl
@[simp] theorem Lane.start_doutrd : l.start.doutrd = 0#5 := rfl
@[simp] theorem Lane.start_dbusy : l.start.dbusy = true := rfl
@[simp] theorem Lane.start_dpc : l.start.dpc = ⟨0#4, 3#2⟩ := rfl
end Lane_start

section Lane_setS
variable (l : Lane) (t : Block) (p : Dpc)
@[simp] theorem Lane.setS_din : (l.setS t p).din = l.din := rfl
@[simp] theorem Lane.setS_dincnt : (l.setS t p).dincnt = l.dincnt := rfl
@[simp] theorem Lane.setS_s : (l.setS t p).s = t := rfl
@[simp] theorem Lane.setS_dout : (l.setS t p).dout = l.dout := rfl
@[simp] theorem Lane.setS_doutvalid : (l.setS t p).doutvalid = l.doutvalid := rfl
@[simp] theorem Lane.setS_doutrd : (l.setS t p).doutrd = l.doutrd := rfl
@[simp] theorem Lane.setS_dbusy : (l.setS t p).dbusy = l.dbusy := rfl
@[simp] theorem Lane.setS_dpc : (l.setS t p).dpc = p := rfl
end Lane_setS

section Lane_finish
variable (l : Lane) (t : Block)
@[simp] theorem Lane.finish_din : (l.finish t).din = l.din := rfl
@[simp] theorem Lane.finish_dincnt : (l.finish t).dincnt = l.dincnt := rfl
@[simp] theorem Lane.finish_s : (l.finish t).s = zeroBlock := rfl
@[simp] theorem Lane.finish_dout : (l.finish t).dout = t := rfl
@[simp] theorem Lane.finish_doutvalid : (l.finish t).doutvalid = true := rfl
@[simp] theorem Lane.finish_doutrd : (l.finish t).doutrd = 0#5 := rfl
@[simp] theorem Lane.finish_dbusy : (l.finish t).dbusy = false := rfl
@[simp] theorem Lane.finish_dpc : (l.finish t).dpc = ⟨0#4, 0#2⟩ := rfl
end Lane_finish

section Lane_pop
variable (l : Lane)
@[simp] theorem Lane.pop_din : l.pop.din = l.din := by unfold Lane.pop; split <;> rfl
@[simp] theorem Lane.pop_dincnt : l.pop.dincnt = l.dincnt := by unfold Lane.pop; split <;> rfl
@[simp] theorem Lane.pop_s : l.pop.s = l.s := by unfold Lane.pop; split <;> rfl
@[simp] theorem Lane.pop_dout : l.pop.dout = l.dout := by unfold Lane.pop; split <;> rfl
@[simp] theorem Lane.pop_dbusy : l.pop.dbusy = l.dbusy := by unfold Lane.pop; split <;> rfl
@[simp] theorem Lane.pop_dpc : l.pop.dpc = l.dpc := by unfold Lane.pop; split <;> rfl
theorem Lane.pop_doutvalid : l.pop.doutvalid = if l.doutrd = 15#5 then false else l.doutvalid := by
  unfold Lane.pop; split <;> rfl
theorem Lane.pop_doutrd : l.pop.doutrd = if l.doutrd = 15#5 then 0#5 else l.doutrd + 1#5 := by
  unfold Lane.pop; split <;> rfl
end Lane_pop

section Lane_reset
@[simp] theorem Lane.reset_din : Lane.reset.din = Vector.replicate 16 0#8 := rfl
@[simp] theorem Lane.reset_dincnt : Lane.reset.dincnt = 0#5 := rfl
@[simp] theorem Lane.reset_s : Lane.reset.s = Vector.replicate 16 0#8 := rfl
@[simp] theorem Lane.reset_dout : Lane.reset.dout = Vector.replicate 16 0#8 := rfl
@[simp] theorem Lane.reset_doutvalid : Lane.reset.doutvalid = false := rfl
@[simp] theorem Lane.reset_doutrd : Lane.reset.doutrd = 0#5 := rfl
@[simp] theorem Lane.reset_dbusy : Lane.reset.dbusy = false := rfl
@[simp] theorem Lane.reset_dpc : Lane.reset.dpc = ⟨0#4, 0#2⟩ := rfl
end Lane_reset

@[simp] theorem respond_eq (v : BitVec 24) (s : State) : respond v s = s.answer (responseWord .ok v) := rfl

@[simp] theorem raise_eq (code : ResultCode) (info : BitVec 24) (s : State) :
    raise code info s = s.answer (responseWord code info) := rfl

@[simp] theorem State.answer_nDp (s : State) (rsp : Word) : (s.answer rsp).nDp = s.nDp := rfl
@[simp] theorem State.setLane_nDp (s : State) (d : LaneNo) (l : Lane) : (s.setLane d l).nDp = s.nDp := by simp [State.nDp]
@[simp] theorem State.clearKeySide_nDp (s : State) : s.clearKeySide.nDp = s.nDp := rfl
@[simp] theorem State.pushKey_nDp (s : State) (b : Byte) : (s.pushKey b).nDp = s.nDp := rfl
@[simp] theorem State.beginExpansion_nDp (s : State) : s.beginExpansion.nDp = s.nDp := by unfold State.beginExpansion; rfl
@[simp] theorem State.setTemp_nDp (s : State) (t : Word) (k : Kpc) : (s.setTemp t k).nDp = s.nDp := rfl
@[simp] theorem State.storeWord_nDp (s : State) (i : Nat) (v : Word) (k : Kpc) : (s.storeWord i v k).nDp = s.nDp := rfl
@[simp] theorem State.endExpansion_nDp (s : State) (i : Nat) (v : Word) : (s.endExpansion i v).nDp = s.nDp := rfl
@[simp] theorem State.setHost_nDp (s : State) (rest : List HostAction) : (s.setHost rest).nDp = s.nDp := rfl
@[simp] theorem State.tick_nDp (s : State) : s.tick.nDp = s.nDp := rfl
@[simp] theorem State.hardwareReset_nDp (s : State) : s.hardwareReset.nDp = s.nDp := by simp [State.nDp]
@[simp] theorem State.resetWith_nDp (c : Config) : (State.resetWith c).nDp = c.nDp := by simp [State.nDp]

end Sys2Proof.Machine
end

