-- ==== Sys2Proof/Laws/Ops.lean ====
section
/-! SUPPORT. What each shared operation can answer, said once: the checks of R290, the holds of R292, lane
access, and the sequencers' selection of R120. -/

namespace Sys2Proof.Machine

/-! ## Checks and holds -/

@[simp] theorem unlessFatal_of_true {s : State} (k : Result) (h : s.fatal = true) :
    unlessFatal s k = .next (raise .eFatal 0#24 s) := by simp [unlessFatal, h]

@[simp] theorem unlessFatal_of_false {s : State} (k : Result) (h : s.fatal = false) :
    unlessFatal s k = k := by simp [unlessFatal, h]

theorem unlessFatal_eq_next {s t : State} {k : Result} :
    unlessFatal s k = .next t ↔
      (s.fatal = true ∧ t = s.answer (responseWord .eFatal 0#24)) ∨ (s.fatal = false ∧ k = .next t) := by
  unfold unlessFatal
  cases h : s.fatal <;> simp [eq_comm]

@[simp] theorem holdUntil_true (s : State) (k : Result) : holdUntil true s k = k := rfl

@[simp] theorem holdUntil_false (s : State) (k : Result) : holdUntil false s k = .next s := rfl

theorem holdUntil_eq_next {c : Bool} {s t : State} {k : Result} :
    holdUntil c s k = .next t ↔ (c = false ∧ t = s) ∨ (c = true ∧ k = .next t) := by
  cases c <;> simp [holdUntil, eq_comm]

@[simp] theorem onLane_of_some {d : LaneNo} {s : State} {l : Lane} (k : Lane → Result)
    (h : s.lane? d = some l) : onLane d s k = k l := by simp [onLane, h]

@[simp] theorem onLane_of_none {d : LaneNo} {s : State} (k : Lane → Result)
    (h : s.lane? d = none) : onLane d s k = .next (raise .eIllegal 0#24 s) := by simp [onLane, h]

theorem onLane_eq_next {d : LaneNo} {s t : State} {k : Lane → Result} :
    onLane d s k = .next t ↔
      (s.lane? d = none ∧ t = s.answer (responseWord .eIllegal 0#24)) ∨
      ∃ l, s.lane? d = some l ∧ k l = .next t := by
  unfold onLane
  cases h : s.lane? d <;> simp [eq_comm]

theorem lanesIdle_iff (s : State) : s.lanesIdle = true ↔ ∀ l ∈ s.lanes, l.dbusy = false := by
  simp [State.lanesIdle]

theorem laneIdle_iff {s : State} {d : LaneNo} {l : Lane} (h : s.lane? d = some l) :
    s.laneIdle d = !l.dbusy := by simp [State.laneIdle, h]

/-! ## Lanes -/

theorem lane?_eq_some_iff (s : State) (d : LaneNo) (l : Lane) :
    s.lane? d = some l ↔ s.lanes[d.toNat]? = some l := Iff.rfl

theorem lt_of_lane? {s : State} {d : LaneNo} {l : Lane} (h : s.lane? d = some l) : d.toNat < s.lanes.length := by
  rw [lane?_eq_some_iff] at h
  exact (List.getElem?_eq_some_iff.mp h).1

theorem laneLegal_of_lane? {s : State} {d : LaneNo} {l : Lane} (h : s.lane? d = some l) :
    laneLegal s.nDp d = true := by
  rw [laneLegal, decide_eq_true_eq]
  exact lt_of_lane? h

theorem laneLegal_iff (s : State) (d : LaneNo) : laneLegal s.nDp d = true ↔ ∃ l, s.lane? d = some l := by
  rw [laneLegal, decide_eq_true_eq]
  simp only [State.nDp, State.lane?, List.getElem?_eq_some_iff]
  exact ⟨fun h => ⟨_, h, rfl⟩, fun ⟨_, h, _⟩ => h⟩

theorem lane?_setLane_self {s : State} {d : LaneNo} {l₀ : Lane} (l : Lane) (h : s.lane? d = some l₀) :
    (s.setLane d l).lane? d = some l := by
  simp [State.lane?, lt_of_lane? h]

theorem lane?_setLane_ne {s : State} {d e : LaneNo} (l : Lane) (h : d ≠ e) :
    (s.setLane d l).lane? e = s.lane? e := by
  have : d.toNat ≠ e.toNat := fun hh => h (BitVec.eq_of_toNat_eq hh)
  simp [State.lane?, this]

/-- A lane of the list after `setLane` is the new one or an old one. -/
theorem mem_lanes_setLane {s : State} {d : LaneNo} {l m : Lane} (h : m ∈ (s.setLane d l).lanes) :
    m = l ∨ m ∈ s.lanes := by
  simp only [State.setLane_lanes] at h
  rcases List.mem_or_eq_of_mem_set h with h | h
  · exact .inr h
  · exact .inl h

theorem mem_of_lane? {s : State} {d : LaneNo} {l : Lane} (h : s.lane? d = some l) : l ∈ s.lanes :=
  List.mem_of_getElem? h

/-! ## Selection -/

theorem kseNext_eq_some {s : State} {i : Instr} :
    kseNext s = some i ↔ s.kbusy = true ∧ decodeKpc (kpcBits s.kpc.kidx s.kpc.kph) = .instr i := by
  unfold kseNext Kpc.code
  cases s.kbusy <;> simp [decode]

theorem laneNext_eq_some {s : State} {d : LaneNo} {i : Instr} :
    laneNext s d = some i ↔
      ∃ l, s.lane? d = some l ∧ l.dbusy = true ∧ decodeDpc d (dpcBits l.dpc.rnd l.dpc.ph) = .instr i := by
  unfold laneNext Dpc.code
  cases h : s.lane? d with
  | none => simp
  | some l => cases hb : l.dbusy <;> simp [decode, laneLegal_of_lane? h, hb]

theorem kseStep_eq_next {i : Instr} {s t : State} {k : State → State} :
    kseStep i s k = .next t ↔ kseNext s = some i ∧ t = k s := by
  unfold kseStep
  split <;> simp_all [eq_comm]

theorem laneStep_eq_next {i : Instr} {d : LaneNo} {s t : State} {k : Lane → Lane} :
    laneStep i d s k = .next t ↔ laneNext s d = some i ∧ ∃ l, s.lane? d = some l ∧ t = s.setLane d (k l) := by
  unfold laneStep
  split
  · cases s.lane? d <;> simp_all [eq_comm]
  · simp_all

/-- The KSE selects (r, ph): which micro-operation that is. -/
theorem kseNext_at {s : State} {i : Instr} (h : kseNext s = some i) :
    s.kbusy = true ∧
    ((∃ r, s.kpc = ⟨r, 0#3⟩ ∧ kidxLegal r = true ∧ i = .kld r) ∨
     (∃ r, s.kpc = ⟨r, 1#3⟩ ∧ kidxRoundLegal r = true ∧ i = .krot r) ∨
     (∃ r, s.kpc = ⟨r, 2#3⟩ ∧ kidxRoundLegal r = true ∧ i = .ksub r) ∨
     (∃ r, s.kpc = ⟨r, 3#3⟩ ∧ kidxRoundLegal r = true ∧ i = .krc r) ∨
     (∃ r, s.kpc = ⟨r, 4#3⟩ ∧ kidxLegal r = true ∧ i = .kst r)) := by
  obtain ⟨hb, h⟩ := kseNext_eq_some.mp h
  refine ⟨hb, ?_⟩
  rcases hk : s.kpc with ⟨r, ph⟩
  simp only [hk] at h
  rcases (decodeKpc_eq_instr r ph i).mp h with ⟨rfl, hr, rfl⟩ | ⟨rfl, hr, rfl⟩ | ⟨rfl, hr, rfl⟩ | ⟨rfl, hr, rfl⟩ | ⟨rfl, hr, rfl⟩
  · exact .inl ⟨r, rfl, hr, rfl⟩
  · exact .inr (.inl ⟨r, rfl, hr, rfl⟩)
  · exact .inr (.inr (.inl ⟨r, rfl, hr, rfl⟩))
  · exact .inr (.inr (.inr (.inl ⟨r, rfl, hr, rfl⟩)))
  · exact .inr (.inr (.inr (.inr ⟨r, rfl, hr, rfl⟩)))

/-- Lane d selects (n, ph): which micro-operation that is. -/
theorem laneNext_at {s : State} {d : LaneNo} {i : Instr} (h : laneNext s d = some i) :
    ∃ l n, s.lane? d = some l ∧ l.dbusy = true ∧
    ((l.dpc = ⟨n, 0#2⟩ ∧ rndLegal n = true ∧ i = .sb d n) ∨ (l.dpc = ⟨n, 1#2⟩ ∧ rndLegal n = true ∧ i = .sr d n) ∨
     (l.dpc = ⟨n, 2#2⟩ ∧ rndMixLegal n = true ∧ i = .mc d n) ∨
     (l.dpc = ⟨n, 3#2⟩ ∧ rndKeyLegal n = true ∧ i = .ark d n)) := by
  obtain ⟨l, hl, hb, h⟩ := laneNext_eq_some.mp h
  rcases hk : l.dpc with ⟨n, ph⟩
  simp only [hk] at h
  refine ⟨l, n, hl, hb, ?_⟩
  rcases (decodeDpc_eq_instr d n ph i).mp h with ⟨rfl, hr, rfl⟩ | ⟨rfl, hr, rfl⟩ | ⟨rfl, hr, rfl⟩ | ⟨rfl, hr, rfl⟩
  · exact .inl ⟨hk, hr, rfl⟩
  · exact .inr (.inl ⟨hk, hr, rfl⟩)
  · exact .inr (.inr (.inl ⟨hk, hr, rfl⟩))
  · exact .inr (.inr (.inr ⟨hk, hr, rfl⟩))

/-! ## Legal field values and the advance of the sequencers -/

theorem kidxLegal_iff (r : BitVec 6) : kidxLegal r = true ↔ 4 ≤ r.toNat ∧ r.toNat ≤ 43 := by
  simp [kidxLegal]

theorem kidxRoundLegal_iff (r : BitVec 6) :
    kidxRoundLegal r = true ↔ 4 ≤ r.toNat ∧ r.toNat ≤ 40 ∧ r.toNat % 4 = 0 := by simp [kidxRoundLegal]

theorem rndLegal_iff (n : BitVec 4) : rndLegal n = true ↔ 1 ≤ n.toNat ∧ n.toNat ≤ 10 := by simp [rndLegal]

theorem rndMixLegal_iff (n : BitVec 4) : rndMixLegal n = true ↔ 1 ≤ n.toNat ∧ n.toNat ≤ 9 := by
  simp [rndMixLegal]

theorem rndKeyLegal_iff (n : BitVec 4) : rndKeyLegal n = true ↔ n.toNat ≤ 10 := by simp [rndKeyLegal]

@[simp] theorem nextKpc_kld (r : BitVec 6) :
    nextKpc r 0#3 = if r.toNat % 4 = 0 then ⟨r, 1#3⟩ else ⟨r, 4#3⟩ := rfl
@[simp] theorem nextKpc_krot (r : BitVec 6) : nextKpc r 1#3 = ⟨r, 2#3⟩ := rfl
@[simp] theorem nextKpc_ksub (r : BitVec 6) : nextKpc r 2#3 = ⟨r, 3#3⟩ := rfl
@[simp] theorem nextKpc_krc (r : BitVec 6) : nextKpc r 3#3 = ⟨r, 4#3⟩ := rfl
@[simp] theorem nextKpc_kst (r : BitVec 6) : nextKpc r 4#3 = ⟨r + 1#6, 0#3⟩ := rfl
@[simp] theorem nextDpc_sb (n : BitVec 4) : nextDpc n 0#2 = ⟨n, 1#2⟩ := rfl
@[simp] theorem nextDpc_sr (n : BitVec 4) :
    nextDpc n 1#2 = if n.toNat ≤ 9 then ⟨n, 2#2⟩ else ⟨n, 3#2⟩ := rfl
@[simp] theorem nextDpc_mc (n : BitVec 4) : nextDpc n 2#2 = ⟨n, 3#2⟩ := rfl
@[simp] theorem nextDpc_ark (n : BitVec 4) : nextDpc n 3#2 = ⟨n + 1#4, 0#2⟩ := rfl

/-- KIDX never wraps while the expansion goes on (R31). -/
theorem kidx_succ_toNat (r : BitVec 6) (h : r.toNat < 43) : (r + 1#6).toNat = r.toNat + 1 := by
  rw [BitVec.toNat_add]
  simp
  omega

/-- RND never wraps while the transform goes on (R41). -/
theorem rnd_succ_toNat (n : BitVec 4) (h : n.toNat < 10) : (n + 1#4).toNat = n.toNat + 1 := by
  rw [BitVec.toNat_add]
  simp
  omega

/-! ## The sequencers at a given value -/

theorem kseNext_of_kpc {s : State} {r : BitVec 6} {ph : BitVec 3} (hb : s.kbusy = true) (hk : s.kpc = ⟨r, ph⟩)
    (i : Instr) : kseNext s = some i ↔ decodeKpc (kpcBits r ph) = .instr i := by
  rw [kseNext_eq_some, hk]
  simp [hb]

theorem laneNext_of_dpc {s : State} {d : LaneNo} {l : Lane} {n : BitVec 4} {ph : BitVec 2}
    (hl : s.lane? d = some l) (hb : l.dbusy = true) (hk : l.dpc = ⟨n, ph⟩) (i : Instr) :
    laneNext s d = some i ↔ decodeDpc d (dpcBits n ph) = .instr i := by
  rw [laneNext_eq_some]
  simp [hl, hb, hk]

end Sys2Proof.Machine
end

