-- ==== Sys2Proof/Laws/Exec.lean ====
section
/-! SUPPORT. One inversion lemma per instruction: what the state is after it, and under which conditions. The
provers cite these instead of unfolding a meaning. -/

namespace Sys2Proof.Machine

/-! ## The control commands -/

theorem exec_nop (s : State) : exec .nop s = .next (s.answer (responseWord .ok 0#24)) := rfl

theorem exec_kstat (s : State) : exec .kstat s = .next (s.answer (responseWord .ok (keyStatus s))) := rfl

theorem exec_dstat_next {d : LaneNo} {s t : State} (h : exec (.dstat d) s = .next t) :
    (s.lane? d = none ∧ t = s.answer (responseWord .eIllegal 0#24)) ∨
    ∃ l, s.lane? d = some l ∧ t = s.answer (responseWord .ok (laneStatus s l)) := by
  simp only [exec, execDstat] at h
  rcases onLane_eq_next.mp h with h | ⟨l, hl, h⟩
  · exact .inl h
  · cases h; exact .inr ⟨l, hl, rfl⟩

/-! ## The key-side commands -/

theorem exec_keyclr_next {s t : State} (h : exec .keyclr s = .next t) :
    (s.fatal = true ∧ t = s.answer (responseWord .eFatal 0#24)) ∨
    (s.fatal = false ∧ released .keyclr s = false ∧ t = s) ∨
    (s.fatal = false ∧ released .keyclr s = true ∧ t = s.clearKeySide.answer (responseWord .ok 0#24)) := by
  simp only [exec, execKeyclr] at h
  rcases unlessFatal_eq_next.mp h with h | ⟨hf, h⟩
  · exact .inl h
  rcases holdUntil_eq_next.mp h with ⟨hr, h⟩ | ⟨hr, h⟩
  · exact .inr (.inl ⟨hf, hr, h⟩)
  · cases h; exact .inr (.inr ⟨hf, hr, rfl⟩)

theorem exec_keypush_next {b : Byte} {s t : State} (h : exec (.keypush b) s = .next t) :
    (s.fatal = true ∧ t = s.answer (responseWord .eFatal 0#24)) ∨
    (s.fatal = false ∧ released (.keypush b) s = false ∧ t = s) ∨
    (s.fatal = false ∧ released (.keypush b) s = true ∧ t = (s.pushKey b).answer (responseWord .ok 0#24)) := by
  simp only [exec, execKeypush] at h
  rcases unlessFatal_eq_next.mp h with h | ⟨hf, h⟩
  · exact .inl h
  rcases holdUntil_eq_next.mp h with ⟨hr, h⟩ | ⟨hr, h⟩
  · exact .inr (.inl ⟨hf, hr, h⟩)
  · cases h; exact .inr (.inr ⟨hf, hr, rfl⟩)

theorem exec_expand_next {s t : State} (h : exec .expand s = .next t) :
    (s.fatal = true ∧ t = s.answer (responseWord .eFatal 0#24)) ∨
    (s.fatal = false ∧ released .expand s = false ∧ t = s) ∨
    (s.fatal = false ∧ released .expand s = true ∧ s.keycnt ≠ 16#5 ∧
      t = s.answer (responseWord .eKeylen (s.keycnt.zeroExtend 24))) ∨
    (s.fatal = false ∧ released .expand s = true ∧ s.keycnt = 16#5 ∧
      t = s.beginExpansion.answer (responseWord .ok 0#24)) := by
  simp only [exec, execExpand] at h
  rcases unlessFatal_eq_next.mp h with h | ⟨hf, h⟩
  · exact .inl h
  rcases holdUntil_eq_next.mp h with ⟨hr, h⟩ | ⟨hr, h⟩
  · exact .inr (.inl ⟨hf, hr, h⟩)
  by_cases hk : s.keycnt = 16#5
  · rw [if_neg (by simpa using hk)] at h
    cases h; exact .inr (.inr (.inr ⟨hf, hr, hk, rfl⟩))
  · rw [if_pos hk] at h
    cases h; exact .inr (.inr (.inl ⟨hf, hr, hk, rfl⟩))

/-! ## The lane commands -/

theorem exec_dinclr_next {d : LaneNo} {s t : State} (h : exec (.dinclr d) s = .next t) :
    (s.lane? d = none ∧ t = s.answer (responseWord .eIllegal 0#24)) ∨
    ∃ l, s.lane? d = some l ∧
      ((s.fatal = true ∧ t = s.answer (responseWord .eFatal 0#24)) ∨
       (s.fatal = false ∧ t = (s.setLane d l.clearIn).answer (responseWord .ok 0#24))) := by
  simp only [exec, execDinclr] at h
  rcases onLane_eq_next.mp h with h | ⟨l, hl, h⟩
  · exact .inl h
  refine .inr ⟨l, hl, ?_⟩
  rcases unlessFatal_eq_next.mp h with h | ⟨hf, h⟩
  · exact .inl h
  · cases h; exact .inr ⟨hf, rfl⟩

theorem exec_dinpush_next {d : LaneNo} {b : Byte} {s t : State} (h : exec (.dinpush d b) s = .next t) :
    (s.lane? d = none ∧ t = s.answer (responseWord .eIllegal 0#24)) ∨
    ∃ l, s.lane? d = some l ∧
      ((s.fatal = true ∧ t = s.answer (responseWord .eFatal 0#24)) ∨
       (s.fatal = false ∧ t = (s.setLane d (l.push b)).answer (responseWord .ok 0#24))) := by
  simp only [exec, execDinpush] at h
  rcases onLane_eq_next.mp h with h | ⟨l, hl, h⟩
  · exact .inl h
  refine .inr ⟨l, hl, ?_⟩
  rcases unlessFatal_eq_next.mp h with h | ⟨hf, h⟩
  · exact .inl h
  · cases h; exact .inr ⟨hf, rfl⟩

theorem exec_encrypt_next {d : LaneNo} {s t : State} (h : exec (.encrypt d) s = .next t) :
    (s.lane? d = none ∧ t = s.answer (responseWord .eIllegal 0#24)) ∨
    ∃ l, s.lane? d = some l ∧
      ((s.fatal = true ∧ t = s.answer (responseWord .eFatal 0#24)) ∨
       (s.fatal = false ∧ released (.encrypt d) s = false ∧ t = s) ∨
       (s.fatal = false ∧ released (.encrypt d) s = true ∧ s.kvalid = false ∧
         t = s.answer (responseWord .eNosched 0#24)) ∨
       (s.fatal = false ∧ released (.encrypt d) s = true ∧ s.kvalid = true ∧ l.dincnt ≠ 16#5 ∧
         t = s.answer (responseWord .eBlklen (l.dincnt.zeroExtend 24))) ∨
       (s.fatal = false ∧ released (.encrypt d) s = true ∧ s.kvalid = true ∧ l.dincnt = 16#5 ∧
         t = (s.setLane d l.start).answer (responseWord .ok 0#24))) := by
  simp only [exec, execEncrypt] at h
  rcases onLane_eq_next.mp h with h | ⟨l, hl, h⟩
  · exact .inl h
  refine .inr ⟨l, hl, ?_⟩
  rcases unlessFatal_eq_next.mp h with h | ⟨hf, h⟩
  · exact .inl h
  rcases holdUntil_eq_next.mp h with ⟨hr, h⟩ | ⟨hr, h⟩
  · exact .inr (.inl ⟨hf, hr, h⟩)
  cases hv : s.kvalid
  · rw [hv] at h
    cases h; exact .inr (.inr (.inl ⟨hf, hr, rfl, rfl⟩))
  · by_cases hc : l.dincnt = 16#5
    · rw [if_neg (by simp [hv]), if_neg (by simpa using hc)] at h
      cases h; exact .inr (.inr (.inr (.inr ⟨hf, hr, rfl, hc, rfl⟩)))
    · rw [if_neg (by simp [hv]), if_pos hc] at h
      cases h; exact .inr (.inr (.inr (.inl ⟨hf, hr, rfl, hc, rfl⟩)))

theorem exec_doutpop_next {d : LaneNo} {s t : State} (h : exec (.doutpop d) s = .next t) :
    (s.lane? d = none ∧ t = s.answer (responseWord .eIllegal 0#24)) ∨
    ∃ l, s.lane? d = some l ∧
      ((s.fatal = true ∧ t = s.answer (responseWord .eFatal 0#24)) ∨
       (s.fatal = false ∧ released (.doutpop d) s = false ∧ t = s) ∨
       (s.fatal = false ∧ released (.doutpop d) s = true ∧ l.doutvalid = false ∧
         t = s.answer (responseWord .eNodata 0#24)) ∨
       (∃ v, s.fatal = false ∧ released (.doutpop d) s = true ∧ l.doutvalid = true ∧
         l.dout[l.doutrd.toNat]? = some v ∧
         t = (s.setLane d l.pop).answer (responseWord .ok (v.zeroExtend 24)))) := by
  simp only [exec, execDoutpop] at h
  rcases onLane_eq_next.mp h with h | ⟨l, hl, h⟩
  · exact .inl h
  refine .inr ⟨l, hl, ?_⟩
  rcases unlessFatal_eq_next.mp h with h | ⟨hf, h⟩
  · exact .inl h
  rcases holdUntil_eq_next.mp h with ⟨hr, h⟩ | ⟨hr, h⟩
  · exact .inr (.inl ⟨hf, hr, h⟩)
  cases hv : l.doutvalid
  · rw [if_pos (by simp [hv])] at h
    cases h; exact .inr (.inr (.inl ⟨hf, hr, rfl, rfl⟩))
  · rw [if_neg (by simp [hv])] at h
    cases hd : l.dout[l.doutrd.toNat]? with
    | none => rw [hd] at h; cases h
    | some v =>
      rw [hd] at h
      cases h; exact .inr (.inr (.inr ⟨v, hf, hr, rfl, rfl, rfl⟩))

/-! ## The micro-operations of the KSE -/

theorem exec_kld_next {r : BitVec 6} {s t : State} : exec (.kld r) s = .next t ↔
    kseNext s = some (.kld r) ∧ t = s.setTemp (wordAt s.w (r.toNat - 1)) (nextKpc r 0#3) := by
  simp only [exec, execKld, kseStep_eq_next]

theorem exec_krot_next {r : BitVec 6} {s t : State} : exec (.krot r) s = .next t ↔
    kseNext s = some (.krot r) ∧ t = s.setTemp (rotWord s.temp) (nextKpc r 1#3) := by
  simp only [exec, execKrot, kseStep_eq_next]

theorem exec_ksub_next {r : BitVec 6} {s t : State} : exec (.ksub r) s = .next t ↔
    kseNext s = some (.ksub r) ∧ t = s.setTemp (subWord s.roms s.temp) (nextKpc r 2#3) := by
  simp only [exec, execKsub, kseStep_eq_next]

theorem exec_krc_next {r : BitVec 6} {s t : State} : exec (.krc r) s = .next t ↔
    kseNext s = some (.krc r) ∧ t = s.setTemp (s.temp ^^^ s.roms.rconAt (r.toNat / 4)) (nextKpc r 3#3) := by
  simp only [exec, execKrc, kseStep_eq_next]

theorem exec_kst_next {r : BitVec 6} {s t : State} : exec (.kst r) s = .next t ↔
    kseNext s = some (.kst r) ∧
      t = if r.toNat < 43 then s.storeWord r.toNat (wordAt s.w (r.toNat - 4) ^^^ s.temp) (nextKpc r 4#3)
        else s.endExpansion r.toNat (wordAt s.w (r.toNat - 4) ^^^ s.temp) := by
  simp only [exec, execKst, kseStep_eq_next]

/-! ## The micro-operations of a lane -/

theorem exec_sb_next {d : LaneNo} {n : BitVec 4} {s t : State} : exec (.sb d n) s = .next t ↔
    laneNext s d = some (.sb d n) ∧
      ∃ l, s.lane? d = some l ∧ t = s.setLane d (l.setS (subBytes s.roms l.s) (nextDpc n 0#2)) :=
  laneStep_eq_next

theorem exec_sr_next {d : LaneNo} {n : BitVec 4} {s t : State} : exec (.sr d n) s = .next t ↔
    laneNext s d = some (.sr d n) ∧
      ∃ l, s.lane? d = some l ∧ t = s.setLane d (l.setS (shiftRows l.s) (nextDpc n 1#2)) :=
  laneStep_eq_next

theorem exec_mc_next {d : LaneNo} {n : BitVec 4} {s t : State} : exec (.mc d n) s = .next t ↔
    laneNext s d = some (.mc d n) ∧
      ∃ l, s.lane? d = some l ∧ t = s.setLane d (l.setS (mixColumns l.s) (nextDpc n 2#2)) :=
  laneStep_eq_next

theorem exec_ark_next {d : LaneNo} {n : BitVec 4} {s t : State} : exec (.ark d n) s = .next t ↔
    laneNext s d = some (.ark d n) ∧
      ∃ l, s.lane? d = some l ∧ t = s.setLane d (if n.toNat < 10 then
          l.setS (addRoundKey l.s s.w n.toNat) (nextDpc n 3#2)
        else l.finish (addRoundKey l.s s.w n.toNat)) :=
  laneStep_eq_next

end Sys2Proof.Machine
end

