-- ==== Sys2Proof/Laws/Agents.lean ====
section
/-! SUPPORT. What a step of the whole machine can be: which agent it is, what the host's step can do, and how a
list of turns runs. The provers cite these instead of unfolding the step. -/

namespace Sys2Proof.Machine

/-! ## The host -/

/-- Everything the host's step can answer. -/
theorem hostStep_eq_next {s t : State} (h : hostStep s = .next t) :
    (s.hostActions = [] ∧ t = s) ∨
    (∃ rest, s.hostActions = .reset :: rest ∧ t = (s.setHost rest).hardwareReset) ∨
    (∃ w rest, s.hostActions = .command w :: .reset :: rest ∧ wordHeld w s = true ∧
      t = (s.setHost rest).hardwareReset) ∨
    (∃ w rest, s.hostActions = .command w :: rest ∧ rest.head? ≠ some .reset ∧ wordHeld w s = true ∧ t = s) ∨
    (∃ w rest why, s.hostActions = .command w :: rest ∧ decode s.nDp (.command w) = .illegal why ∧
      t = (s.setHost rest).answer (responseWord .eIllegal 0#24)) ∨
    (∃ w rest i, s.hostActions = .command w :: rest ∧ wordHeld w s = false ∧
      decode s.nDp (.command w) = .instr i ∧ exec i (s.setHost rest) = .next t) := by
  unfold hostStep at h
  split at h
  · rename_i ha
    cases h; exact .inl ⟨ha, rfl⟩
  · rename_i rest ha
    cases h; exact .inr (.inl ⟨rest, ha, rfl⟩)
  · rename_i w rest ha
    split at h
    · rename_i hw
      split at h
      · rename_i rest'
        cases h; exact .inr (.inr (.inl ⟨w, rest', ha, hw, rfl⟩))
      · rename_i hr
        cases h
        refine .inr (.inr (.inr (.inl ⟨w, rest, ha, ?_, hw, rfl⟩)))
        cases rest with
        | nil => simp
        | cons a as => cases a with
          | command v => simp
          | reset => exact absurd rfl (hr as)
    · rename_i hw
      unfold issueWord at h
      rw [show (s.setHost rest).nDp = s.nDp from rfl] at h
      split at h
      · rename_i i hd
        exact .inr (.inr (.inr (.inr (.inr ⟨w, rest, i, ha, by simpa using hw, hd, h⟩))))
      · rename_i why hd
        cases h; exact .inr (.inr (.inr (.inr (.inl ⟨w, rest, why, ha, hd, rfl⟩))))

/-! ## The units -/

/-- The KSE's turn: its selected micro-operation, or nothing. -/
theorem agentStep_kse_eq_next {s t : State} (h : agentStep .kse s = .next t) :
    (kseNext s = none ∧ t = s) ∨ ∃ i, kseNext s = some i ∧ exec i s = .next t := by
  simp only [agentStep] at h
  cases hn : kseNext s with
  | none => rw [hn] at h; cases h; exact .inl ⟨rfl, rfl⟩
  | some i => rw [hn] at h; exact .inr ⟨i, rfl, h⟩

/-- A lane's turn: its selected micro-operation, or nothing. -/
theorem agentStep_lane_eq_next {s t : State} {d : LaneNo} (h : agentStep (.lane d) s = .next t) :
    (laneNext s d = none ∧ t = s) ∨ ∃ i, laneNext s d = some i ∧ exec i s = .next t := by
  simp only [agentStep] at h
  cases hn : laneNext s d with
  | none => rw [hn] at h; cases h; exact .inl ⟨rfl, rfl⟩
  | some i => rw [hn] at h; exact .inr ⟨i, rfl, h⟩

@[simp] theorem agentStep_kse_of_none {s : State} (h : kseNext s = none) : agentStep .kse s = .next s := by
  simp only [agentStep, h]

@[simp] theorem agentStep_kse_of_some {s : State} {i : Instr} (h : kseNext s = some i) :
    agentStep .kse s = exec i s := by simp only [agentStep, h]

@[simp] theorem agentStep_lane_of_none {s : State} {d : LaneNo} (h : laneNext s d = none) :
    agentStep (.lane d) s = .next s := by simp only [agentStep, h]

@[simp] theorem agentStep_lane_of_some {s : State} {d : LaneNo} {i : Instr} (h : laneNext s d = some i) :
    agentStep (.lane d) s = exec i s := by simp only [agentStep, h]

/-! ## The choice -/

/-- A free pick is an enabled agent of this core. -/
theorem freePick_eq_some {s : State} {a : Agent} (h : freePick s = some a) : a ∈ s.agents ∧ enabled a s = true := by
  suffices a ∈ s.agents.filter (enabled · s) by simpa using this
  unfold freePick at h
  split at h
  · cases h
  · rename_i b hb
    cases h; rw [hb]; exact List.mem_singleton.mpr rfl
  · exact List.mem_of_getElem? h

/-- With an enabled agent there is a free pick. -/
theorem freePick_isSome {s : State} {a : Agent} (ha : a ∈ s.agents) (he : enabled a s = true) :
    ∃ b, freePick s = some b := by
  have hm : a ∈ s.agents.filter (enabled · s) := by simp [ha, he]
  unfold freePick
  split
  · rename_i h0; rw [h0] at hm; cases hm
  · exact ⟨_, rfl⟩
  · rename_i as h1 _
    have : 0 < (s.agents.filter (enabled · s)).length := List.length_pos_of_mem hm
    exact ⟨_, List.getElem?_eq_getElem (Nat.mod_lt _ this)⟩

/-- The agent that steps is enabled. -/
theorem chooseAgent_eq_some {s : State} {a : Agent} (h : chooseAgent s = some a) : enabled a s = true := by
  unfold chooseAgent at h
  split at h
  · split at h
    · rename_i he
      cases h; exact he
    · exact (freePick_eq_some h).2
  · exact (freePick_eq_some h).2

/-- The turn laid down is taken when its agent is enabled. -/
theorem chooseAgent_of_head {s : State} {a : Agent} {turns : List Agent} (hs : s.schedule = a :: turns)
    (he : enabled a s = true) : chooseAgent s = some a := by
  simp [chooseAgent, hs, he]

/-- Everything a step can be: the turn of an enabled agent, or an idle machine that stays as it is. -/
theorem step_eq_next {s t : State} (h : step s = .next t) :
    (∃ a, chooseAgent s = some a ∧ enabled a s = true ∧ agentStep a s.tick = .next t) ∨
    (chooseAgent s = none ∧ s.unitBusy = false ∧ t = s) := by
  simp only [step, machineStep] at h
  cases hc : chooseAgent s with
  | some a => rw [hc] at h; exact .inl ⟨a, rfl, chooseAgent_eq_some hc, h⟩
  | none =>
    rw [hc] at h
    cases hb : s.unitBusy with
    | true => rw [hb] at h; cases h
    | false => rw [hb] at h; cases h; exact .inr ⟨rfl, rfl, rfl⟩

/-! ## Lists of turns -/

@[simp] theorem runAgents_nil (s : State) : runAgents [] s = .next s := rfl

theorem runAgents_cons_of_next {a : Agent} {as : List Agent} {s t : State} (h : agentStep a s = .next t) :
    runAgents (a :: as) s = runAgents as t := by simp only [runAgents, h]

theorem runAgents_cons_eq_next {a : Agent} {as : List Agent} {s u : State} :
    runAgents (a :: as) s = .next u ↔ ∃ t, agentStep a s = .next t ∧ runAgents as t = .next u := by
  cases h : agentStep a s <;> simp [runAgents, h]

theorem runAgents_append_of_next {as bs : List Agent} {s t : State} (h : runAgents as s = .next t) :
    runAgents (as ++ bs) s = runAgents bs t := by
  induction as generalizing s with
  | nil => cases h; rfl
  | cons a as ih =>
    obtain ⟨u, hu, h⟩ := runAgents_cons_eq_next.mp h
    rw [List.cons_append, runAgents_cons_of_next hu, ih h]

end Sys2Proof.Machine
end

