-- ==== Sys2Proof/Laws/PerInstr.lean ====
section
/-! SUPPORT. The per-instruction family RoundTrip: the decoder reads a well-formed instruction back from its
own code. -/

namespace Sys2Proof.Laws.RoundTrip

/-- On every core on which the instruction is well-formed, decoding its code gives it back. -/
def Statement (i : Instr) : Prop := ∀ nDp : Nat, wellFormed nDp i = true → decode nDp (encode i) = .instr i

theorem nop : Statement .nop := by
  intro n h; simp [decode, encode, decodeCommand, commandOf, Format.noLane, Format.noImm]

theorem keyclr : Statement .keyclr := by
  intro n h; simp [decode, encode, decodeCommand, commandOf, Format.noLane, Format.noImm]

theorem keypush (b : Byte) : Statement (.keypush b) := by
  intro n h; simp [decode, encode, decodeCommand, commandOf, Format.noLane, Format.noImm]

theorem expand : Statement .expand := by
  intro n h; simp [decode, encode, decodeCommand, commandOf, Format.noLane, Format.noImm]

theorem kstat : Statement .kstat := by
  intro n h; simp [decode, encode, decodeCommand, commandOf, Format.noLane, Format.noImm]

theorem dinclr (d : LaneNo) : Statement (.dinclr d) := by
  intro n h
  simp only [wellFormed] at h
  simp [decode, encode, decodeCommand, commandOf, Format.noLane, Format.noImm, h]

theorem dinpush (d : LaneNo) (b : Byte) : Statement (.dinpush d b) := by
  intro n h
  simp only [wellFormed] at h
  simp [decode, encode, decodeCommand, commandOf, Format.noLane, Format.noImm, h]

theorem encrypt (d : LaneNo) : Statement (.encrypt d) := by
  intro n h
  simp only [wellFormed] at h
  simp [decode, encode, decodeCommand, commandOf, Format.noLane, Format.noImm, h]

theorem doutpop (d : LaneNo) : Statement (.doutpop d) := by
  intro n h
  simp only [wellFormed] at h
  simp [decode, encode, decodeCommand, commandOf, Format.noLane, Format.noImm, h]

theorem dstat (d : LaneNo) : Statement (.dstat d) := by
  intro n h
  simp only [wellFormed] at h
  simp [decode, encode, decodeCommand, commandOf, Format.noLane, Format.noImm, h]

theorem kld (r : BitVec 6) : Statement (.kld r) := by
  intro n h
  simpa [decode, encode, decodeKpc_eq_instr, wellFormed] using h

theorem krot (r : BitVec 6) : Statement (.krot r) := by
  intro n h
  simpa [decode, encode, decodeKpc_eq_instr, wellFormed] using h

theorem ksub (r : BitVec 6) : Statement (.ksub r) := by
  intro n h
  simpa [decode, encode, decodeKpc_eq_instr, wellFormed] using h

theorem krc (r : BitVec 6) : Statement (.krc r) := by
  intro n h
  simpa [decode, encode, decodeKpc_eq_instr, wellFormed] using h

theorem kst (r : BitVec 6) : Statement (.kst r) := by
  intro n h
  simpa [decode, encode, decodeKpc_eq_instr, wellFormed] using h

theorem sb (d : LaneNo) (n : BitVec 4) : Statement (.sb d n) := by
  intro k h
  simp only [wellFormed, Bool.and_eq_true] at h
  simp [decode, encode, decodeDpc_eq_instr, h]

theorem sr (d : LaneNo) (n : BitVec 4) : Statement (.sr d n) := by
  intro k h
  simp only [wellFormed, Bool.and_eq_true] at h
  simp [decode, encode, decodeDpc_eq_instr, h]

theorem mc (d : LaneNo) (n : BitVec 4) : Statement (.mc d n) := by
  intro k h
  simp only [wellFormed, Bool.and_eq_true] at h
  simp [decode, encode, decodeDpc_eq_instr, h]

theorem ark (d : LaneNo) (n : BitVec 4) : Statement (.ark d n) := by
  intro k h
  simp only [wellFormed, Bool.and_eq_true] at h
  simp [decode, encode, decodeDpc_eq_instr, h]

end Sys2Proof.Laws.RoundTrip
end

