-- ==== Sys2Proof/Laws/Safety.lean ====
section
/-! SUPPORT. Small lemmas about the invariants, the schedule as it is built, and reachable sequencer values. -/

namespace Sys2Proof.Machine

/-! ## The host's side is no part of the invariants -/

/-- The invariants of R51 speak of the core's own items only. -/
theorem State.Inv.withHostSide {s : State} (h : s.Inv) (acts : List HostAction) (rsps : List Word)
    (turns : List Agent) (n : Nat) :
    State.Inv { s with hostActions := acts, responses := rsps, schedule := turns, stepCount := n } :=
  ⟨h.legal, h.fatal, ⟨h.key.valid, h.key.busy, fun hb => ⟨(h.key.temp hb).atKrot, (h.key.temp hb).atKsub,
    (h.key.temp hb).atKrc, (h.key.temp hb).atKst⟩, h.key.idle⟩,
   fun l hl => ⟨(h.lane l hl).busy, (h.lane l hl).idle, (h.lane l hl).rd⟩, h.exclusive,
   fun hf => ⟨(h.corrupt hf).keybuf, (h.corrupt hf).keycnt, (h.corrupt hf).w, (h.corrupt hf).kvalid,
     (h.corrupt hf).kbusy, (h.corrupt hf).temp, (h.corrupt hf).kpc, (h.corrupt hf).lanes⟩⟩

theorem State.Inv.answer {s : State} (h : s.Inv) (rsp : Word) : (s.answer rsp).Inv := h.withHostSide _ _ _ _

theorem State.Inv.tick {s : State} (h : s.Inv) : s.tick.Inv := h.withHostSide _ _ _ _

theorem State.Inv.setHost {s : State} (h : s.Inv) (rest : List HostAction) : (s.setHost rest).Inv :=
  h.withHostSide _ _ _ _

/-- Writing a lane that satisfies its invariants keeps the rest, while FATAL = 0. -/
theorem State.Inv.setLane {s : State} {d : LaneNo} {l₀ l : Lane} (h : s.Inv) (hl₀ : s.lane? d = some l₀)
    (hl : LaneInv s l) (hb : l.dbusy = true → l₀.dbusy = true ∨ s.kbusy = false) (hf : s.fatal = false) :
    (s.setLane d l).Inv := by
  obtain ⟨hlegal, hfatal, hkey, hlane, hex, hcor⟩ := h
  refine ⟨by simpa [State.config] using hlegal, hfatal, ⟨hkey.valid, hkey.busy, fun hb => ⟨(hkey.temp hb).atKrot,
    (hkey.temp hb).atKsub, (hkey.temp hb).atKrc, (hkey.temp hb).atKst⟩, hkey.idle⟩, ?_, ?_, by simp [hf]⟩
  · intro m hm
    rcases mem_lanes_setLane hm with rfl | hm
    · exact ⟨hl.busy, hl.idle, hl.rd⟩
    · exact ⟨(hlane m hm).busy, (hlane m hm).idle, (hlane m hm).rd⟩
  · intro hk m hm
    rcases mem_lanes_setLane hm with rfl | hm
    · have h₀ := hex hk l₀ (mem_of_lane? hl₀)
      cases hd : m.dbusy with
      | false => rfl
      | true => rcases hb hd with h | h <;> simp_all
    · exact hex hk m hm

/-! ## The schedule as it is built -/

/-- A word once derived stays. -/
theorem wordAt_expandWords_add (r : Roms) (k : Block) (n i : Nat) (h : i < n + 4) (m : Nat) :
    wordAt (expandWords r k (n + m)) i = wordAt (expandWords r k n) i := by
  induction m with
  | zero => rfl
  | succ m ih => rw [← Nat.add_assoc, expandWords, wordAt_setWord_ne _ _ _ _ (by omega), ih]

/-- The words of the whole schedule are those of the one under construction. -/
theorem wordAt_keyExpansion_of_lt (r : Roms) (k : Block) (n i : Nat) (hn : n ≤ 40) (h : i < n + 4) :
    wordAt (keyExpansion r k) i = wordAt (expandWords r k n) i := by
  have e : 40 = n + (40 - n) := by omega
  rw [keyExpansion, e, wordAt_expandWords_add r k n i h]

/-! ## Decoded words -/

theorem isCommand_of_decode {nDp : Nat} {w : Word} {i : Instr} (h : decode nDp (.command w) = .instr i) :
    isCommand i = true := by
  obtain ⟨-, f, h, -⟩ := decodeCommand_eq_instr h
  unfold commandOf at h
  repeat (obtain ⟨-, h⟩ | ⟨-, h⟩ := ite_eq_iff.mp h; · cases h; rfl)
  cases h

/-! ## Reachable sequencer values -/

theorem kpc_reachable_of_decode {r : BitVec 6} {ph : BitVec 3} {i : Instr}
    (h : decodeKpc (kpcBits r ph) = .instr i) : (⟨r, ph⟩ : Kpc).reachable = true := by
  simp [Kpc.reachable, h, Decoded.toOption]

theorem dpc_reachable_of_decode {n : BitVec 4} {ph : BitVec 2} {i : Instr}
    (h : decodeDpc 0#8 (dpcBits n ph) = .instr i) : (⟨n, ph⟩ : Dpc).reachable = true := by
  simp [Dpc.reachable, h, Decoded.toOption]

end Sys2Proof.Machine
end

