-- ==== Sys2Proof/Tests/Slice0.lean ====
section
/-! SUPPORT. Tests on fixed values, each taken from the spec (spec/95_test_vectors.md vectors V1 to V15, the
examples of the rules), and for every statement with hypotheses a witness that meets them, for each clause. -/

open Sys2Proof Sys2Proof.Machine

namespace Sys2Proof.Tests

/-! ## Small states -/

/-- After reset of a core with correct ROMs, the check of the ROMs not evaluated again. -/
def idle : State := { State.reset with fatal := false }

/-- A core whose ROMs are wrong: `RCON` all zero. -/
def corrupt : State := State.resetWith { nDp := 1, roms := { fixedRoms with rcon := Vector.replicate 11 0#32 } }

/-- The engine in the middle of an expansion. -/
def expanding (r : BitVec 6) (ph : BitVec 3) (temp : Word) : State :=
  { idle with keycnt := 16#5, kbusy := true, kpc := ⟨r, ph⟩, temp := temp }

/-- One lane, as given, the schedule valid. -/
def withLane (l : Lane) : State := { idle with keycnt := 16#5, kvalid := true, lanes := [l] }

/-- A lane in the middle of a transform. -/
def busyLane (n : BitVec 4) (ph : BitVec 2) (s : Block) : Lane :=
  { Lane.reset with dbusy := true, dpc := ⟨n, ph⟩, s := s }

/-- The key of vector V1. -/
def keyV1 : Block := #v[0x00, 0x01, 0x02, 0x03, 0x04, 0x05, 0x06, 0x07, 0x08, 0x09, 0x0a, 0x0b, 0x0c, 0x0d, 0x0e, 0x0f]

/-- The plaintext of vector V1. -/
def plainV1 : Block := #v[0x00, 0x11, 0x22, 0x33, 0x44, 0x55, 0x66, 0x77, 0x88, 0x99, 0xaa, 0xbb, 0xcc, 0xdd, 0xee, 0xff]

/-- Read something off a next state. -/
def after (r : Result) (f : State → α) : Option α :=
  match r with
  | .next t => some (f t)
  | .fault _ => none
  | .refused _ => none

/-! ## Well-formedness: each check refuses an ill-formed term -/

theorem test_wellFormed_lane : wellFormed 1 (.dinclr 1#8) = false ∧ wellFormed 2 (.dinclr 1#8) = true := by decide
theorem test_wellFormed_lanes : wellFormed 1 (.dinpush 1#8 0#8) = false ∧ wellFormed 1 (.encrypt 2#8) = false ∧
    wellFormed 1 (.doutpop 1#8) = false ∧ wellFormed 255 (.dstat 255#8) = false ∧
    wellFormed 256 (.dstat 255#8) = true := by decide
theorem test_wellFormed_kidx : wellFormed 1 (.kld 3#6) = false ∧ wellFormed 1 (.kld 44#6) = false ∧
    wellFormed 1 (.kst 3#6) = false ∧ wellFormed 1 (.kst 44#6) = false ∧ wellFormed 1 (.kst 43#6) = true := by decide
theorem test_wellFormed_kidxRound : wellFormed 1 (.krot 5#6) = false ∧ wellFormed 1 (.ksub 0#6) = false ∧
    wellFormed 1 (.krc 44#6) = false ∧ wellFormed 1 (.krc 40#6) = true := by decide
theorem test_wellFormed_rnd : wellFormed 1 (.sb 0#8 0#4) = false ∧ wellFormed 1 (.sr 0#8 11#4) = false ∧
    wellFormed 1 (.mc 0#8 10#4) = false ∧ wellFormed 1 (.ark 0#8 11#4) = false ∧
    wellFormed 1 (.sb 1#8 1#4) = false ∧ wellFormed 1 (.ark 0#8 0#4) = true := by decide

/-! ## Decoding: words written out from the tables of R104 and R120 (vector V14) -/

theorem test_decode_key_side : decode 1 (.command 0x00000000#32) = .instr .nop ∧
    decode 1 (.command 0x01000000#32) = .instr .keyclr ∧
    decode 1 (.command 0x020000a5#32) = .instr (.keypush 0xa5#8) ∧
    decode 1 (.command 0x03000000#32) = .instr .expand ∧
    decode 1 (.command 0x04000000#32) = .instr .kstat := by decide
theorem test_decode_lane_side : decode 1 (.command 0x10000000#32) = .instr (.dinclr 0#8) ∧
    decode 1 (.command 0x110000ff#32) = .instr (.dinpush 0#8 0xff#8) ∧
    decode 2 (.command 0x12010000#32) = .instr (.encrypt 1#8) ∧
    decode 1 (.command 0x13000000#32) = .instr (.doutpop 0#8) ∧
    decode 256 (.command 0x14ff0000#32) = .instr (.dstat 255#8) := by decide
theorem test_decode_kse : decode 1 (.kpc 0b000100000#9) = .instr (.kld 4#6) ∧
    decode 1 (.kpc 0b101000001#9) = .instr (.krot 40#6) ∧ decode 1 (.kpc 0b000100010#9) = .instr (.ksub 4#6) ∧
    decode 1 (.kpc 0b100100011#9) = .instr (.krc 36#6) ∧ decode 1 (.kpc 0b101011100#9) = .instr (.kst 43#6) := by
  decide
theorem test_decode_lane_units : decode 1 (.dpc 0#8 0b000100#6) = .instr (.sb 0#8 1#4) ∧
    decode 1 (.dpc 0#8 0b101001#6) = .instr (.sr 0#8 10#4) ∧ decode 1 (.dpc 0#8 0b100110#6) = .instr (.mc 0#8 9#4) ∧
    decode 1 (.dpc 0#8 0b000011#6) = .instr (.ark 0#8 0#4) := by decide
theorem test_decode_illegal_words : decode 1 (.command 0x00000001#32) = .illegal .immNotZero ∧
    decode 1 (.command 0x01010000#32) = .illegal .laneNotZero ∧
    decode 1 (.command 0x02010000#32) = .illegal .laneNotZero ∧
    decode 1 (.command 0x10000001#32) = .illegal .immNotZero ∧
    decode 1 (.command 0x11000100#32) = .illegal .mbzNotZero ∧
    decode 1 (.command 0x12010000#32) = .illegal .laneAbsent ∧
    decode 1 (.command 0x0f000000#32) = .illegal .noSuchOp ∧
    decode 1 (.command 0xffffffff#32) = .illegal .mbzNotZero := by decide
theorem test_decode_idle_codes : decode 1 (.kpc 0#9) = .illegal .noMicroOp ∧
    decode 1 (.dpc 0#8 0#6) = .illegal .noMicroOp ∧ decode 1 (.kpc 0b000101001#9) = .illegal .noMicroOp ∧
    decode 1 (.dpc 0#8 0b101010#6) = .illegal .noMicroOp := by decide
theorem test_table_words : decodeTableWord 32 0x110000ff = some (.dinpush 0#8 0xff#8) ∧
    decodeTableWord 9 0b000100011 = some (.krc 4#6) ∧ decodeTableWord 6 0b101011 = some (.ark 0#8 10#4) ∧
    decodeTableWord 32 0x0f000000 = none := by decide

/-! ## The functions (vectors V7, V9, V10, V13) -/

theorem test_xtime : xtime 0x57#8 = 0xae#8 ∧ xtime 0x80#8 = 0x1b#8 ∧ xtime 0xff#8 = 0xe5#8 := by decide
theorem test_gmul : gmul 0x57#8 0x83#8 = 0xc1#8 ∧ gmul 0x57#8 0x13#8 = 0xfe#8 ∧ gmul 0x53#8 0xca#8 = 0x01#8 := by
  decide
theorem test_multipliers : mul2 0xd4#8 = 0xb3#8 ∧ mul3 0xbf#8 = 0xda#8 := by decide
theorem test_sbox : fixedRoms.sboxAt 0x53#8 = 0xed#8 ∧ fixedRoms.sboxAt 0x0f#8 = 0x76#8 ∧
    fixedRoms.sboxAt 0xf0#8 = 0x8c#8 ∧ fixedRoms.sboxAt 0xff#8 = 0x16#8 := by decide
theorem test_keyG : keyG fixedRoms 0xaebf7ad2#32 9 = 0x13dab5e4#32 ∧
    keyG fixedRoms 0xbe2c974e#32 10 = 0x47882fae#32 := by decide
theorem test_shiftRows : shiftRows keyV1 = #v[0x00, 0x05, 0x0a, 0x0f, 0x04, 0x09, 0x0e, 0x03, 0x08, 0x0d, 0x02,
    0x07, 0x0c, 0x01, 0x06, 0x0b] := by decide
theorem test_mixColumns : mixColumns #v[0xdb, 0x13, 0x53, 0x45, 0xf2, 0x0a, 0x22, 0x5c, 0x01, 0x01, 0x01, 0x01,
    0xc6, 0xc6, 0xc6, 0xc6] = #v[0x8e, 0x4d, 0xa1, 0xbc, 0x9f, 0xdc, 0x58, 0x9d, 0x01, 0x01, 0x01, 0x01, 0xc6,
    0xc6, 0xc6, 0xc6] := by decide

/-- Vector V1, the one numeric example of the source: the whole cipher. -/
theorem test_vector_V1 : cipher fixedRoms plainV1 (keyExpansion fixedRoms keyV1) = #v[0x69, 0xc4, 0xe0, 0xd8, 0x6a,
    0x7b, 0x04, 0x30, 0xd8, 0xcd, 0xb7, 0x80, 0x70, 0xb4, 0xc5, 0x5a] := by decide +kernel

/-! ## One step of each instruction -/

/-- R250, with FATAL = 1 too. -/
theorem test_nop : exec .nop corrupt = .next (corrupt.answer 0x00000000#32) := rfl

/-- R170. -/
theorem test_keyclr : after (exec .keyclr { idle with keybuf := keyV1, keycnt := 17#5, kvalid := true })
    (fun t => (t.keybuf, t.keycnt, t.kvalid, t.responses)) =
    some (Vector.replicate 16 0#8, 0#5, false, [0x00000000#32]) := by decide

/-- R171's example. -/
theorem test_keypush : after (exec (.keypush 0x2b#8) idle) (fun t => (t.keybuf[0], t.keybuf[1], t.keycnt)) =
    some (0x2b#8, 0x00#8, 1#5) := by decide

/-- R171: a seventeenth byte is counted, not stored, and ends the session. -/
theorem test_keypush_seventeenth : after (exec (.keypush 0xaa#8)
    { idle with keybuf := keyV1, keycnt := 16#5, kvalid := true }) (fun t => (t.keybuf, t.keycnt, t.kvalid)) =
    some (keyV1, 17#5, false) := by decide

/-- R172's example: after sixteen pushes. -/
theorem test_expand : after (exec .expand { idle with keybuf := keyV1, keycnt := 16#5 })
    (fun t => (wordAt t.w 0, wordAt t.w 3, t.kpc, t.kbusy, t.responses)) =
    some (0x00010203#32, 0x0c0d0e0f#32, ⟨4#6, 0#3⟩, true, [0x00000000#32]) := by decide

/-- R172's example: after fifteen. -/
theorem test_expand_short : after (exec .expand { idle with keycnt := 15#5 }) (fun t => (t.responses, t.kbusy)) =
    some ([0x0100000f#32], false) := by decide

/-- R251, vector V15: while expanding; and without TablesOK. -/
theorem test_kstat : after (exec .kstat (expanding 4#6 0#3 0#32)) State.responses = some [0x00001002#32] := by decide
theorem test_kstat_corrupt : after (exec .kstat { idle with fatal := true }) State.responses =
    some [0x00000004#32] := by decide

/-- R210. -/
theorem test_dinclr : after (exec (.dinclr 0#8) (withLane { Lane.reset with din := plainV1, dincnt := 16#5 }))
    (fun t => t.lanes.map fun l => (l.din, l.dincnt)) = some [(Vector.replicate 16 0#8, 0#5)] := by decide

/-- R211's example. -/
theorem test_dinpush : after (exec (.dinpush 0#8 0x32#8) idle) (fun t => t.lanes.map fun l => (l.din[0], l.dincnt)) =
    some [(0x32#8, 1#5)] := by decide

/-- R211: the count saturates and the byte is dropped. -/
theorem test_dinpush_saturates : after (exec (.dinpush 0#8 0x32#8)
    (withLane { Lane.reset with din := plainV1, dincnt := 31#5 })) (fun t => t.lanes.map fun l => (l.din, l.dincnt)) =
    some [(plainV1, 31#5)] := by decide

/-- R212's examples: fifteen bytes; and after reset, where E_NOSCHED comes before E_BLKLEN. -/
theorem test_encrypt_failures : after (exec (.encrypt 0#8) (withLane { Lane.reset with dincnt := 15#5 }))
    State.responses = some [0x0200000f#32] ∧ after (exec (.encrypt 0#8) idle) State.responses =
    some [0x04000000#32] := by decide

/-- R212: the transform starts at (0, ARK) and the unread ciphertext is discarded. -/
theorem test_encrypt : after (exec (.encrypt 0#8)
    (withLane { Lane.reset with din := plainV1, dincnt := 16#5, doutvalid := true, doutrd := 3#5 }))
    (fun t => t.lanes) = some [{ Lane.reset with din := plainV1, s := plainV1, dbusy := true, dpc := ⟨0#4, 3#2⟩ }] := by
  decide

/-- R213: the pop of byte 15 ends the ciphertext. -/
theorem test_doutpop_last : after (exec (.doutpop 0#8)
    (withLane { Lane.reset with dout := plainV1, doutvalid := true, doutrd := 15#5 }))
    (fun t => (t.responses, t.lanes.map fun l => (l.doutvalid, l.doutrd))) =
    some ([0x000000ff#32], [(false, 0#5)]) := by decide

/-- R213: the seventeenth pop. -/
theorem test_doutpop_empty : after (exec (.doutpop 0#8) idle) State.responses = some [0x05000000#32] := by decide

/-- R252's example: after three pops; and seventeen bytes pushed (V15). -/
theorem test_dstat : after (exec (.dstat 0#8) (withLane { Lane.reset with doutvalid := true, doutrd := 3#5 }))
    State.responses = some [0x00030001#32] ∧
    after (exec (.dstat 0#8) (withLane { Lane.reset with dincnt := 17#5 })) State.responses =
    some [0x00001100#32] := by decide

/-- R173's example. -/
theorem test_kld : after (exec (.kld 4#6) { expanding 4#6 0#3 0#32 with w := loadKeyWords keyV1 zeroSchedule })
    (fun t => (t.temp, t.kpc)) = some (0x0c0d0e0f#32, ⟨4#6, 1#3⟩) := by decide

/-- R31: at r not a multiple of 4 the store follows at once. -/
theorem test_kld_short : after (exec (.kld 5#6) (expanding 5#6 0#3 0#32)) (fun t => t.kpc) = some ⟨5#6, 4#3⟩ := by
  decide

/-- R174's example. -/
theorem test_krot : after (exec (.krot 4#6) (expanding 4#6 1#3 0x0c0d0e0f#32)) (fun t => (t.temp, t.kpc)) =
    some (0x0d0e0f0c#32, ⟨4#6, 2#3⟩) := by decide

/-- R175's example. -/
theorem test_ksub : after (exec (.ksub 4#6) (expanding 4#6 2#3 0x0d0e0f0c#32)) (fun t => (t.temp, t.kpc)) =
    some (0xd7ab76fe#32, ⟨4#6, 3#3⟩) := by decide

/-- R177's examples. -/
theorem test_krc : after (exec (.krc 4#6) (expanding 4#6 3#3 0xd7ab76fe#32)) (fun t => (t.temp, t.kpc)) =
    some (0xd6ab76fe#32, ⟨4#6, 4#3⟩) := by decide
theorem test_krc_nine : after (exec (.krc 36#6) (expanding 36#6 3#3 0#32)) (fun t => t.temp) =
    some 0x1b000000#32 := by decide

/-- R176's example. -/
theorem test_kst : after (exec (.kst 4#6)
    { expanding 4#6 4#3 0xd6ab76fe#32 with w := loadKeyWords keyV1 zeroSchedule })
    (fun t => (wordAt t.w 4, wordAt t.w 0, t.kpc, t.kbusy)) =
    some (0xd6aa74fd#32, 0x00010203#32, ⟨5#6, 0#3⟩, true) := by decide

/-- The end of the expansion in vector V2: W[43] from W[39] and TEMP. -/
theorem test_kst_last : after (exec (.kst 43#6)
    { expanding 43#6 4#3 0xf307a78b#32 with w := setWord zeroSchedule 39 0xbe2c974e#32 })
    (fun t => (wordAt t.w 43, t.kpc, t.temp, t.kbusy, t.kvalid)) =
    some (0x4d2b30c5#32, ⟨0#6, 0#3⟩, 0#32, false, true) := by decide

/-- R202's example is the first SB of vector V1. -/
theorem test_sb : after (exec (.sb 0#8 1#4) (withLane (busyLane 1#4 0#2 #v[0x00, 0x10, 0x20, 0x30, 0x40, 0x50,
    0x60, 0x70, 0x80, 0x90, 0xa0, 0xb0, 0xc0, 0xd0, 0xe0, 0xf0]))) (fun t => t.lanes.map fun l => (l.s, l.dpc)) =
    some [(#v[0x63, 0xca, 0xb7, 0x04, 0x09, 0x53, 0xd0, 0x51, 0xcd, 0x60, 0xe0, 0xe7, 0xba, 0x70, 0xe1, 0x8c],
      ⟨1#4, 1#2⟩)] := by decide

/-- R203's example is the first SR of vector V1. -/
theorem test_sr : after (exec (.sr 0#8 1#4) (withLane (busyLane 1#4 1#2 #v[0x63, 0xca, 0xb7, 0x04, 0x09, 0x53,
    0xd0, 0x51, 0xcd, 0x60, 0xe0, 0xe7, 0xba, 0x70, 0xe1, 0x8c]))) (fun t => t.lanes.map fun l => (l.s, l.dpc)) =
    some [(#v[0x63, 0x53, 0xe0, 0x8c, 0x09, 0x60, 0xe1, 0x04, 0xcd, 0x70, 0xb7, 0x51, 0xba, 0xca, 0xd0, 0xe7],
      ⟨1#4, 2#2⟩)] := by decide

/-- R222: after the SR of round 10 comes ARK. -/
theorem test_sr_last : after (exec (.sr 0#8 10#4) (withLane (busyLane 10#4 1#2 zeroBlock)))
    (fun t => t.lanes.map Lane.dpc) = some [⟨10#4, 3#2⟩] := by decide

/-- R204's state example is the first MC of vector V1. -/
theorem test_mc : after (exec (.mc 0#8 1#4) (withLane (busyLane 1#4 2#2 #v[0x63, 0x53, 0xe0, 0x8c, 0x09, 0x60,
    0xe1, 0x04, 0xcd, 0x70, 0xb7, 0x51, 0xba, 0xca, 0xd0, 0xe7]))) (fun t => t.lanes.map fun l => (l.s, l.dpc)) =
    some [(#v[0x5f, 0x72, 0x64, 0x15, 0x57, 0xf5, 0xbc, 0x92, 0xf7, 0xbe, 0x3b, 0x29, 0x1d, 0xb9, 0xf9, 0x1a],
      ⟨1#4, 3#2⟩)] := by decide

/-- R201's example is the first step of vector V1. -/
theorem test_ark : after (exec (.ark 0#8 0#4)
    { withLane (busyLane 0#4 3#2 plainV1) with w := loadKeyWords keyV1 zeroSchedule })
    (fun t => t.lanes.map fun l => (l.s, l.dpc)) =
    some [(#v[0x00, 0x10, 0x20, 0x30, 0x40, 0x50, 0x60, 0x70, 0x80, 0x90, 0xa0, 0xb0, 0xc0, 0xd0, 0xe0, 0xf0],
      ⟨1#4, 0#2⟩)] := by decide

/-- The last step of vector V5, with round key 10 of vector V2. -/
theorem test_ark_last : after (exec (.ark 0#8 10#4)
    { withLane (busyLane 10#4 3#2 #v[0x7a, 0xd5, 0xfd, 0xa7, 0x89, 0xef, 0x4e, 0x27, 0x2b, 0xca, 0x10, 0x0b, 0x3d,
        0x9f, 0xf5, 0x9f]) with
      w := setWord (setWord (setWord (setWord zeroSchedule 40 0x13111d7f#32) 41 0xe3944a17#32) 42 0xf307a78b#32)
        43 0x4d2b30c5#32 })
    (fun t => t.lanes) = some [{ Lane.reset with doutvalid := true, dout := #v[0x69, 0xc4, 0xe0, 0xd8, 0x6a, 0x7b,
      0x04, 0x30, 0xd8, 0xcd, 0xb7, 0x80, 0x70, 0xb4, 0xc5, 0x5a] }] := by decide

/-- R111, R273: an illegal word and a data command on a core with wrong ROMs, through the whole step. -/
theorem test_step_illegal : after (step { idle with fatal := true, hostActions := [.command 0x0f000000#32] })
    State.responses = some [0x06000000#32] := by decide
theorem test_step_fatal : after (step { idle with fatal := true, hostActions := [.command 0x01000000#32] })
    State.responses = some [0x03000000#32] := by decide

/-- R52, R68: the ROM check of a core with the fixed tables, and of one with a wrong round constant. -/
theorem test_reset_fatal : State.reset.fatal = false := by decide
theorem test_reset_fatal_wrong : corrupt.fatal = true := by decide

/-! ## States that satisfy the invariants -/

theorem tables_fixed : tablesOk fixedRoms = true := by decide

/-- The schedule of the all-zero key is valid, and the one lane is `l`. -/
def session (l : Lane) : State :=
  { idle with keycnt := 16#5, w := keyExpansion fixedRoms zeroBlock, kvalid := true, lanes := [l] }

/-- EXPAND has just started on the all-zero key. -/
def begun : State :=
  { idle with keycnt := 16#5, w := loadKeyWords zeroBlock zeroSchedule, kbusy := true, kpc := ⟨4#6, 0#3⟩ }

/-- Sixteen bytes of a block pushed. -/
def fullLane : Lane := { Lane.reset with dincnt := 16#5 }

/-- A transform has just started. -/
def startedLane : Lane := { Lane.reset with dbusy := true, dpc := ⟨0#4, 3#2⟩ }

theorem session_inv (l : Lane) (h : LaneInv (session l) l) : (session l).Inv where
  legal := rfl
  fatal := by rw [show (session l).roms = fixedRoms from rfl, tables_fixed]; rfl
  key := ⟨fun _ => ⟨rfl, rfl, rfl⟩, fun h => (Bool.false_ne_true h).elim, fun h => (Bool.false_ne_true h).elim,
    fun _ => ⟨rfl, rfl⟩⟩
  lane := by intro m hm; rw [List.mem_singleton.mp hm]; exact h
  exclusive := fun h => (Bool.false_ne_true h).elim
  corrupt := fun h => (Bool.false_ne_true h).elim

theorem session_full_inv : (session fullLane).Inv :=
  session_inv _ ⟨fun h => (Bool.false_ne_true h).elim, fun _ => ⟨rfl, rfl⟩, ⟨fun _ => rfl, by decide⟩⟩

theorem session_started_inv : (session startedLane).Inv :=
  session_inv _ ⟨fun _ => ⟨rfl, rfl, rfl, by decide⟩, fun h => (Bool.false_ne_true h.symm).elim,
    ⟨fun _ => rfl, by decide⟩⟩

theorem begun_inv : begun.Inv where
  legal := by decide
  fatal := by rw [show begun.roms = fixedRoms from rfl, tables_fixed]; rfl
  key := ⟨fun h => (Bool.false_ne_true h).elim,
    fun _ => ⟨rfl, rfl, by decide, fun i hi => (wordAt_keyExpansion_of_lt fixedRoms zeroBlock 0 i (by omega) hi).symm⟩,
    fun _ => ⟨by decide, by decide, by decide, by decide⟩, fun h => (Bool.false_ne_true h.symm).elim⟩
  lane := by
    intro m hm; rw [show m = Lane.reset from List.mem_singleton.mp hm]
    exact ⟨fun h => (Bool.false_ne_true h).elim, fun _ => ⟨rfl, rfl⟩, ⟨fun _ => rfl, by decide⟩⟩
  exclusive := by intro _ m hm; rw [show m = Lane.reset from List.mem_singleton.mp hm]; rfl
  corrupt := fun h => (Bool.false_ne_true h).elim

/-- Sixteen zero key bytes pushed, nothing busy. -/
def keyed : State := { idle with keycnt := 16#5 }

theorem keyed_inv : keyed.Inv where
  legal := by decide
  fatal := by rw [show keyed.roms = fixedRoms from rfl, tables_fixed]; rfl
  key := ⟨fun h => (Bool.false_ne_true h).elim, fun h => (Bool.false_ne_true h).elim,
    fun h => (Bool.false_ne_true h).elim, fun _ => ⟨rfl, rfl⟩⟩
  lane := by
    intro m hm; rw [show m = Lane.reset from List.mem_singleton.mp hm]
    exact ⟨fun h => (Bool.false_ne_true h).elim, fun _ => ⟨rfl, rfl⟩, ⟨fun _ => rfl, by decide⟩⟩
  exclusive := fun h => (Bool.false_ne_true h).elim
  corrupt := fun h => (Bool.false_ne_true h).elim

theorem corrupt_inv : corrupt.Inv where
  legal := by decide
  fatal := rfl
  key := ⟨fun h => (Bool.false_ne_true h).elim, fun h => (Bool.false_ne_true h).elim,
    fun h => (Bool.false_ne_true h).elim, fun _ => ⟨rfl, rfl⟩⟩
  lane := by
    intro m hm; rw [show m = Lane.reset from List.mem_singleton.mp hm]
    exact ⟨fun h => (Bool.false_ne_true h).elim, fun _ => ⟨rfl, rfl⟩, ⟨fun _ => rfl, by decide⟩⟩
  exclusive := fun h => (Bool.false_ne_true h).elim
  corrupt := fun _ => ⟨rfl, rfl, rfl, rfl, rfl, rfl, rfl, fun _ hm => List.mem_singleton.mp hm⟩

/-! ## Witnesses: encoding and the step -/

theorem witness_DecodeOfEncode : wellFormed 2 (.encrypt 1#8) = true ∧ wellFormed 1 (.kst 43#6) = true ∧
    wellFormed 1 (.ark 0#8 10#4) = true := by decide

theorem witness_EncodeOfDecode : decode 256 (.command 0x14ff0000#32) = .instr (.dstat 255#8) ∧
    decode 1 (.kpc 0b101011100#9) = .instr (.kst 43#6) ∧
    decode 1 (.dpc 0#8 0b000011#6) = .instr (.ark 0#8 0#4) := by decide

theorem witness_DecodingIsTheCommandTable : ∃ w : Word, ∃ r₁ ∈ commandTable, ∃ r₂ ∈ commandTable,
    r₁.matches w = true ∧ r₂.matches w = true := by
  refine ⟨0x020000a5#32, ⟨"KEYPUSH", .b, 0x02000000, 0xFFFFFF00⟩, by decide,
    ⟨"KEYPUSH", .b, 0x02000000, 0xFFFFFF00⟩, by decide, by decide, by decide⟩

theorem witness_StepRunsTheIssuedCommand : ∃ (s : State) (w : Word) (i : Instr) (turns : List Agent) (acts : List HostAction),
    s.schedule = .host :: turns ∧
    s.hostActions = .command w :: acts ∧ decode s.nDp (.command w) = .instr i ∧ waits i s = false :=
  ⟨{ idle with schedule := [.host], hostActions := [.command 0x01000000#32] }, _, .keyclr, _, _, rfl, rfl,
    by decide, by decide⟩

theorem witness_StepRunsTheSelectedMicroOp :
    (∃ (s : State) (i : Instr) (turns : List Agent), s.schedule = .kse :: turns ∧ s.kbusy = true ∧
      decode s.nDp (.kpc (s.kpc.kidx ++ s.kpc.kph)) = .instr i) ∧
    (∃ (s : State) (i : Instr) (d : LaneNo) (l : Lane) (turns : List Agent), s.schedule = .lane d :: turns ∧
      s.lanes[d.toNat]? = some l ∧ l.dbusy = true ∧
      decode s.nDp (.dpc d (l.dpc.rnd ++ l.dpc.ph)) = .instr i) :=
  ⟨⟨{ expanding 43#6 4#3 0#32 with schedule := [.kse] }, .kst 43#6, _, rfl, rfl, by decide⟩,
   ⟨{ withLane (busyLane 10#4 3#2 zeroBlock) with schedule := [.lane 0#8] }, .ark 0#8 10#4, 0#8, _, _, rfl, rfl, rfl,
    by decide⟩⟩

theorem witness_SomeEnabledAgentSteps :
    (∃ s : State, s.schedule = [] ∧ ∃ a ∈ s.agents, enabled a s = true) ∧
    (∃ s : State, s.schedule = [] ∧ (∀ a ∈ s.agents, enabled a s = false) ∧ s.unitBusy = false) :=
  ⟨⟨expanding 4#6 0#3 0#32, rfl, .kse, by decide, by decide⟩, ⟨idle, rfl, by decide, by decide⟩⟩

theorem witness_PlacedInstructionRunsNext :
    (codeOfTableWord 32 0x03000000 = some (.command 0x03000000#32) ∧
      decode idle.nDp (.command 0x03000000#32) = .instr .expand ∧ waits .expand idle = false) ∧
    (codeOfTableWord 9 0b101011100 = some (.kpc 0b101011100#9) ∧
      decode idle.nDp (.kpc 0b101011100#9) = .instr (.kst 43#6) ∧ waits (.kst 43#6) idle = false) ∧
    (codeOfTableWord 6 0b000011 = some (.dpc 0#8 0b000011#6) ∧
      decode idle.nDp (.dpc 0#8 0b000011#6) = .instr (.ark 0#8 0#4) ∧ waits (.ark 0#8 0#4) idle = false) := by decide

theorem witness_IllegalWordAnswersAndChangesNothing : ∃ (s : State) (w : Word) (why : DecodeError)
    (turns : List Agent) (acts : List HostAction), s.schedule = .host :: turns ∧
    s.hostActions = .command w :: acts ∧ decode s.nDp (.command w) = .illegal why :=
  ⟨{ expanding 4#6 0#3 0#32 with schedule := [.host], hostActions := [.command 0x12010000#32] }, _, .laneAbsent, _, _,
    rfl, rfl, by decide⟩

theorem witness_HeldCommandStaysPending : ∃ (s t : State) (w : Word) (acts : List HostAction), s.hostActions = .command w :: acts ∧
    acts.head? ≠ some .reset ∧ wordHeld w s = true ∧ step s = .next t :=
  ⟨{ expanding 5#6 0#3 0#32 with hostActions := [.command 0x12000000#32], schedule := [.kse] }, _, 0x12000000#32, [],
    rfl, by decide, by decide, rfl⟩

/-! ## Witnesses: reset -/

theorem witness_ResetValues : Lane.reset ∈ (State.resetWith { nDp := 1, roms := fixedRoms }).lanes := by decide

theorem witness_ResetInAnyState :
    (∃ (s : State) (turns : List Agent) (acts : List HostAction), s.schedule = .host :: turns ∧
      s.hostActions = .reset :: acts) ∧
    (∃ (s : State) (w : Word) (turns : List Agent) (acts : List HostAction), s.schedule = .host :: turns ∧
      s.hostActions = .command w :: .reset :: acts ∧ wordHeld w s = true) :=
  ⟨⟨{ expanding 4#6 0#3 0#32 with schedule := [.host], hostActions := [.reset] }, _, _, rfl, rfl⟩,
   ⟨{ expanding 4#6 0#3 0#32 with schedule := [.host], hostActions := [.command 0x12000000#32, .reset] }, _, _, _, rfl,
    rfl, by decide⟩⟩

/-! ## Witnesses: the commands, clause by clause -/

/-- The lane exists or it does not, and FATAL is 1 or 0: the clauses of every lane command. -/
theorem witness_lane_clauses : idle.lanes[(1#8).toNat]? = none ∧
    (corrupt.lanes[(0#8).toNat]? = some Lane.reset ∧ corrupt.fatal = true) ∧
    (idle.lanes[(0#8).toNat]? = some Lane.reset ∧ idle.fatal = false) := by decide

theorem witness_DstatAnswersLaneStatus : idle.lanes[(1#8).toNat]? = none ∧
    idle.lanes[(0#8).toNat]? = some Lane.reset := by decide

theorem witness_KeyclrEndsTheSession : corrupt.fatal = true ∧
    (begun.fatal = false ∧ begun.kbusy = true) ∧
    ((session startedLane).fatal = false ∧ ∃ l ∈ (session startedLane).lanes, l.dbusy = true) ∧
    (keyed.fatal = false ∧ keyed.kbusy = false ∧ ∀ l ∈ keyed.lanes, l.dbusy = false) :=
  ⟨by decide, by decide, ⟨rfl, startedLane, List.mem_singleton.mpr rfl, rfl⟩, by decide⟩

/-- The clauses of KEYPUSH are those of KEYCLR, here with a byte that is stored and one that is dropped. -/
theorem witness_KeypushAppendsAKeyByte : corrupt.fatal = true ∧ (begun.fatal = false ∧ begun.kbusy = true) ∧
    (idle.fatal = false ∧ idle.kbusy = false ∧ (∀ l ∈ idle.lanes, l.dbusy = false) ∧ idle.keycnt = 0#5) ∧
    (keyed.fatal = false ∧ keyed.kbusy = false ∧ (∀ l ∈ keyed.lanes, l.dbusy = false) ∧ keyed.keycnt = 16#5) := by
  decide

theorem witness_ExpandStartsTheEngine : corrupt.fatal = true ∧ (begun.fatal = false ∧ begun.kbusy = true) ∧
    (idle.fatal = false ∧ idle.kbusy = false ∧ (∀ l ∈ idle.lanes, l.dbusy = false) ∧ idle.keycnt ≠ 16#5) ∧
    (keyed.fatal = false ∧ keyed.kbusy = false ∧ (∀ l ∈ keyed.lanes, l.dbusy = false) ∧ keyed.keycnt = 16#5) := by
  decide

/-- The last clause on a core of two lanes too, the other one holding a block. -/
theorem witness_DinclrEmptiesTheInputBuffer : idle.lanes[(1#8).toNat]? = none ∧
    (corrupt.lanes[(0#8).toNat]? = some Lane.reset ∧ corrupt.fatal = true) ∧
    (idle.lanes[(0#8).toNat]? = some Lane.reset ∧ idle.fatal = false) ∧
    (∃ s : State, ∃ l : Lane, s.lanes[(1#8).toNat]? = some l ∧ s.fatal = false ∧ l.dincnt = 16#5 ∧
      s.lanes[(0#8).toNat]? = some fullLane) :=
  ⟨witness_lane_clauses.1, witness_lane_clauses.2.1, witness_lane_clauses.2.2,
   { idle with lanes := [fullLane, fullLane] }, fullLane, by decide⟩

/-- The last clause with the count at 0, at the last byte stored, at the first one dropped and saturated. -/
theorem witness_DinpushAppendsABlockByte : idle.lanes[(1#8).toNat]? = none ∧
    (corrupt.lanes[(0#8).toNat]? = some Lane.reset ∧ corrupt.fatal = true) ∧
    (∀ n ∈ [0#5, 15#5, 16#5, 31#5], ∃ s : State, ∃ l : Lane, s.lanes[(0#8).toNat]? = some l ∧ s.fatal = false ∧
      l.dincnt = n) :=
  ⟨witness_lane_clauses.1, witness_lane_clauses.2.1, fun n _ =>
   ⟨withLane { Lane.reset with dincnt := n }, { Lane.reset with dincnt := n }, rfl, rfl, rfl⟩⟩

theorem witness_EncryptStartsTheLane :
    (idle.lanes[(1#8).toNat]? = none ∧ (corrupt.lanes[(0#8).toNat]? = some Lane.reset ∧ corrupt.fatal = true)) ∧
    (begun.lanes[(0#8).toNat]? = some Lane.reset ∧ begun.fatal = false ∧ begun.kbusy = true) ∧
    (idle.lanes[(0#8).toNat]? = some Lane.reset ∧ idle.fatal = false ∧ idle.kbusy = false ∧ idle.kvalid = false) ∧
    (∃ l, (session Lane.reset).lanes[(0#8).toNat]? = some l ∧ (session Lane.reset).fatal = false ∧
      (session Lane.reset).kbusy = false ∧ l.dbusy = false ∧ (session Lane.reset).kvalid = true ∧ l.dincnt ≠ 16#5) ∧
    (∃ l, (session fullLane).lanes[(0#8).toNat]? = some l ∧ (session fullLane).fatal = false ∧
      (session fullLane).kbusy = false ∧ l.dbusy = false ∧ (session fullLane).kvalid = true ∧ l.dincnt = 16#5) :=
  ⟨by decide, by decide, by decide, ⟨Lane.reset, rfl, rfl, rfl, rfl, rfl, by decide⟩,
   ⟨fullLane, rfl, rfl, rfl, rfl, rfl, rfl⟩⟩

/-- The read position of a lane with a ciphertext at the first and the last byte. -/
theorem witness_DoutpopReturnsTheNextByte :
    (idle.lanes[(1#8).toNat]? = none ∧ (corrupt.lanes[(0#8).toNat]? = some Lane.reset ∧ corrupt.fatal = true)) ∧
    (∃ s : State, ∃ l : Lane, s.lanes[(0#8).toNat]? = some l ∧ s.fatal = false ∧ l.dbusy = true) ∧
    (∃ s : State, ∃ l : Lane, s.lanes[(0#8).toNat]? = some l ∧ s.fatal = false ∧ l.dbusy = false ∧
      l.doutvalid = false) ∧
    (∃ s : State, ∃ l : Lane, s.lanes[(0#8).toNat]? = some l ∧ s.fatal = false ∧ l.dbusy = false ∧
      l.doutvalid = true ∧ l.doutrd.toNat = (0 : Fin 16).val) ∧
    (∃ s : State, ∃ l : Lane, s.lanes[(0#8).toNat]? = some l ∧ s.fatal = false ∧ l.dbusy = false ∧
      l.doutvalid = true ∧ l.doutrd.toNat = (15 : Fin 16).val) :=
  ⟨by decide, ⟨withLane (busyLane 0#4 3#2 zeroBlock), busyLane 0#4 3#2 zeroBlock, by decide⟩,
   ⟨idle, Lane.reset, by decide⟩,
   ⟨withLane { Lane.reset with doutvalid := true }, { Lane.reset with doutvalid := true }, by decide⟩,
   ⟨withLane { Lane.reset with doutvalid := true, doutrd := 15#5 },
    { Lane.reset with doutvalid := true, doutrd := 15#5 }, by decide⟩⟩

/-! ## Witnesses: the micro-operations -/

theorem witness_KldLoadsThePreviousWord : ∀ r ∈ [4#6, 5#6, 43#6], 4 ≤ r.toNat ∧ r.toNat ≤ 43 ∧
    (expanding r 0#3 0#32).kbusy = true ∧ (expanding r 0#3 0#32).kpc = ⟨r, 0#3⟩ := by decide
theorem witness_KrotRotatesTemp : ∀ r ∈ [4#6, 40#6], 4 ≤ r.toNat ∧ r.toNat ≤ 40 ∧ r.toNat % 4 = 0 ∧
    (expanding r 1#3 0#32).kbusy = true ∧ (expanding r 1#3 0#32).kpc = ⟨r, 1#3⟩ := by decide
theorem witness_KsubSubstitutesTemp : ∀ r ∈ [4#6, 40#6], 4 ≤ r.toNat ∧ r.toNat ≤ 40 ∧ r.toNat % 4 = 0 ∧
    (expanding r 2#3 0#32).kbusy = true ∧ (expanding r 2#3 0#32).kpc = ⟨r, 2#3⟩ := by decide
theorem witness_KrcAddsTheRoundConstant : ∀ r ∈ [4#6, 40#6], 4 ≤ r.toNat ∧ r.toNat ≤ 40 ∧ r.toNat % 4 = 0 ∧
    (expanding r 3#3 0#32).kbusy = true ∧ (expanding r 3#3 0#32).kpc = ⟨r, 3#3⟩ := by decide
theorem witness_KstStoresTheWord : ∀ r ∈ [4#6, 42#6, 43#6], 4 ≤ r.toNat ∧ r.toNat ≤ 43 ∧
    (expanding r 4#3 0#32).kbusy = true ∧ (expanding r 4#3 0#32).kpc = ⟨r, 4#3⟩ := by decide
theorem witness_ArkAddsTheRoundKey : ∀ n ∈ [0#4, 9#4, 10#4], n.toNat ≤ 10 ∧
    ∃ l, (withLane (busyLane n 3#2 zeroBlock)).lanes[(0#8).toNat]? = some l ∧ l.dbusy = true ∧ l.dpc = ⟨n, 3#2⟩ := by
  intro n hn
  exact ⟨by revert n hn; decide, busyLane n 3#2 zeroBlock, rfl, rfl, rfl⟩
theorem witness_SbSubstitutesTheState : ∀ n ∈ [1#4, 10#4], 1 ≤ n.toNat ∧ n.toNat ≤ 10 ∧
    ∃ l, (withLane (busyLane n 0#2 zeroBlock)).lanes[(0#8).toNat]? = some l ∧ l.dbusy = true ∧ l.dpc = ⟨n, 0#2⟩ := by
  intro n hn
  exact ⟨by revert n hn; decide, by revert n hn; decide, busyLane n 0#2 zeroBlock, rfl, rfl, rfl⟩
theorem witness_SrShiftsTheRows : ∀ n ∈ [1#4, 9#4, 10#4], 1 ≤ n.toNat ∧ n.toNat ≤ 10 ∧
    ∃ l, (withLane (busyLane n 1#2 zeroBlock)).lanes[(0#8).toNat]? = some l ∧ l.dbusy = true ∧ l.dpc = ⟨n, 1#2⟩ := by
  intro n hn
  exact ⟨by revert n hn; decide, by revert n hn; decide, busyLane n 1#2 zeroBlock, rfl, rfl, rfl⟩
theorem witness_McMixesTheColumns : ∀ n ∈ [1#4, 9#4], 1 ≤ n.toNat ∧ n.toNat ≤ 9 ∧
    ∃ l, (withLane (busyLane n 2#2 zeroBlock)).lanes[(0#8).toNat]? = some l ∧ l.dbusy = true ∧ l.dpc = ⟨n, 2#2⟩ ∧
      l.s[4 * (3 : Fin 4).val]? = some 0#8 ∧ l.s[4 * (3 : Fin 4).val + 1]? = some 0#8 ∧
      l.s[4 * (3 : Fin 4).val + 2]? = some 0#8 ∧ l.s[4 * (3 : Fin 4).val + 3]? = some 0#8 := by
  intro n hn
  exact ⟨by revert n hn; decide, by revert n hn; decide, busyLane n 2#2 zeroBlock, rfl, rfl, rfl, rfl, rfl, rfl, rfl⟩

/-- Every micro-operation runs: the hypothesis of the second clause of the nine statements above. -/
theorem witness_micro_operations_run : (∃ t, exec (.kld 4#6) (expanding 4#6 0#3 0#32) = .next t) ∧
    (∃ t, exec (.krot 4#6) (expanding 4#6 1#3 0#32) = .next t) ∧
    (∃ t, exec (.ksub 40#6) (expanding 40#6 2#3 0#32) = .next t) ∧
    (∃ t, exec (.krc 40#6) (expanding 40#6 3#3 0#32) = .next t) ∧
    (∃ t, exec (.kst 43#6) (expanding 43#6 4#3 0#32) = .next t) ∧
    (∃ t, exec (.sb 0#8 1#4) (withLane (busyLane 1#4 0#2 zeroBlock)) = .next t) ∧
    (∃ t, exec (.sr 0#8 10#4) (withLane (busyLane 10#4 1#2 zeroBlock)) = .next t) ∧
    (∃ t, exec (.mc 0#8 9#4) (withLane (busyLane 9#4 2#2 zeroBlock)) = .next t) ∧
    (∃ t, exec (.ark 0#8 0#4) (withLane (busyLane 0#4 3#2 zeroBlock)) = .next t) :=
  ⟨⟨_, rfl⟩, ⟨_, rfl⟩, ⟨_, rfl⟩, ⟨_, rfl⟩, ⟨_, rfl⟩, ⟨_, rfl⟩, ⟨_, rfl⟩, ⟨_, rfl⟩, ⟨_, rfl⟩⟩

/-- Both kinds of instruction, a lane past its last byte, and a busy engine at (5, KROT), which R31 cannot reach. -/
theorem witness_TheOnlyStops : isCommand (.kld 4#6) = false ∧ isCommand (.doutpop 0#8) = true ∧
    (∃ s : State, ∃ l : Lane, s.lanes[(0#8).toNat]? = some l ∧ s.fatal = false ∧ l.dbusy = false ∧
      l.doutvalid = true ∧ 16 ≤ l.doutrd.toNat) ∧
    (∃ s : State, step s = .fault .stuck) :=
  ⟨rfl, rfl, ⟨withLane { Lane.reset with doutvalid := true, doutrd := 16#5 },
    { Lane.reset with doutvalid := true, doutrd := 16#5 }, by decide⟩, ⟨expanding 5#6 1#3 0#32, rfl⟩⟩

/-! ## Witnesses: frames and the claims over all instructions -/

theorem witness_KeySideCommandFrame : (∃ t, exec .nop idle = .next t) ∧ (∃ t, exec .kstat idle = .next t) ∧
    (∃ t, exec (.dstat 0#8) idle = .next t) ∧ (∃ t, exec .keyclr idle = .next t) ∧
    (∃ t, exec (.keypush 0xff#8) idle = .next t) ∧ (∃ t, exec .expand keyed = .next t) :=
  ⟨⟨_, rfl⟩, ⟨_, rfl⟩, ⟨_, rfl⟩, ⟨_, rfl⟩, ⟨_, rfl⟩, ⟨_, rfl⟩⟩

theorem witness_KeyMicroOpFrame : (∃ t, ∃ i ∈ [Instr.kld 4#6, .krot 4#6, .ksub 4#6, .krc 4#6],
    exec i (expanding 4#6 0#3 0#32) = .next t) ∧ (∃ t, exec (.kst 43#6) (expanding 43#6 4#3 0#32) = .next t) :=
  ⟨⟨_, .kld 4#6, by decide, rfl⟩, ⟨_, rfl⟩⟩

theorem witness_LaneCommandFrame : (∃ t, exec (.dinclr 0#8) idle = .next t) ∧
    (∃ t, exec (.dinpush 0#8 0xff#8) idle = .next t) ∧ (∃ t, exec (.encrypt 0#8) (session fullLane) = .next t) ∧
    (∃ t, exec (.doutpop 0#8) (withLane { Lane.reset with doutvalid := true, doutrd := 15#5 }) = .next t) :=
  ⟨⟨_, rfl⟩, ⟨_, rfl⟩, ⟨_, rfl⟩, ⟨_, rfl⟩⟩

theorem witness_LaneMicroOpFrame : ∃ (s t : State) (i : Instr),
    i ∈ [Instr.sb 0#8 10#4, .sr 0#8 10#4, .mc 0#8 10#4, .ark 0#8 10#4] ∧ exec i s = .next t :=
  ⟨withLane (busyLane 10#4 3#2 zeroBlock), _, .ark 0#8 10#4, by decide, rfl⟩

/-- The items do move: EXPAND raises KBUSY and sets KPC, the last KST drops KBUSY, raises KVALID and clears TEMP,
KEYPUSH drops KVALID and writes KEYBUF and KEYCNT, KEYCLR clears W. -/
theorem witness_OnlyTheNamedInstructionsWrite :
    (∃ t, exec .expand keyed = .next t ∧ keyed.kbusy = false ∧ t.kbusy = true ∧ t.kpc ≠ keyed.kpc) ∧
    (∃ t, exec (.kst 43#6) (expanding 43#6 4#3 1#32) = .next t ∧ t.kbusy = false ∧ t.kvalid = true ∧ t.temp ≠ 1#32) ∧
    (∃ t, exec (.keypush 1#8) (withLane Lane.reset) = .next t ∧ (withLane Lane.reset).kvalid = true ∧
      t.kvalid = false ∧ t.keycnt ≠ 16#5 ∧ t.responses ≠ []) ∧
    (∃ t, exec (.keypush 1#8) idle = .next t ∧ t.keybuf ≠ idle.keybuf) ∧
    (∃ t, exec .keyclr { idle with w := setWord zeroSchedule 0 1#32 } = .next t ∧
      t.w ≠ setWord zeroSchedule 0 1#32) :=
  ⟨⟨_, rfl, rfl, rfl, by decide⟩, ⟨_, rfl, rfl, rfl, by decide⟩, ⟨_, rfl, rfl, rfl, by decide, by decide⟩,
   ⟨_, rfl, by decide⟩, ⟨_, rfl, by decide⟩⟩

/-- And so do a lane's: DINPUSH writes DIN and DINCNT, ENCRYPT sets S, DBUSY and DPC and discards an unread
ciphertext, the last ARK writes DOUT, raises DOUTVALID and drops DBUSY, DOUTPOP moves DOUTRD. -/
theorem witness_OnlyTheNamedInstructionsWrite_lane :
    (∃ t l', exec (.dinpush 0#8 1#8) idle = .next t ∧ t.lanes[0]? = some l' ∧ l'.din ≠ Lane.reset.din ∧
      l'.dincnt ≠ Lane.reset.dincnt) ∧
    (∃ t l', exec (.encrypt 0#8) (withLane { Lane.reset with din := plainV1, dincnt := 16#5, doutvalid := true }) =
      .next t ∧ t.lanes[0]? = some l' ∧ l'.s ≠ Lane.reset.s ∧ l'.dbusy = true ∧ l'.dpc ≠ Lane.reset.dpc ∧
      l'.doutvalid = false) ∧
    (∃ t l', exec (.ark 0#8 10#4) (withLane (busyLane 10#4 3#2 plainV1)) = .next t ∧ t.lanes[0]? = some l' ∧
      l'.dout ≠ Lane.reset.dout ∧ l'.doutvalid = true ∧ l'.dbusy = false) ∧
    (∃ t l', exec (.doutpop 0#8) (withLane { Lane.reset with doutvalid := true }) = .next t ∧ t.lanes[0]? = some l' ∧
      l'.doutrd ≠ 0#5) :=
  ⟨⟨_, _, rfl, rfl, by decide, by decide⟩, ⟨_, _, rfl, rfl, by decide, rfl, by decide, rfl⟩,
   ⟨_, _, rfl, rfl, by decide, rfl, rfl⟩, ⟨_, _, rfl, rfl, by decide⟩⟩

theorem witness_FailedCommandChangesNothing : ∃ (s t : State) (i : Instr) (rsp : Word), isCommand i = true ∧
    exec i s = .next t ∧ t.responses = s.responses ++ [rsp] ∧ rsp.extractLsb' 24 8 ≠ 0x00#8 :=
  ⟨idle, idle.answer 0x04000000#32, .encrypt 0#8, 0x04000000#32, rfl, rfl, rfl, by decide⟩

/-- One failing command for each of the six codes. -/
theorem witness_FailureResponsesOfEachCommand :
    after (exec .expand idle) State.responses = some [0x01000000#32] ∧
    after (exec (.encrypt 0#8) (withLane Lane.reset)) State.responses = some [0x02000000#32] ∧
    after (exec .keyclr { idle with fatal := true }) State.responses = some [0x03000000#32] ∧
    after (exec (.encrypt 0#8) idle) State.responses = some [0x04000000#32] ∧
    after (exec (.doutpop 0#8) idle) State.responses = some [0x05000000#32] ∧
    after (exec (.dstat 1#8) idle) State.responses = some [0x06000000#32] := by decide

theorem witness_CommandsAnswerExactlyWhenReleased :
    (∃ t, isCommand .expand = true ∧ wellFormed keyed.nDp .expand = true ∧ keyed.fatal = false ∧
      exec .expand keyed = .next t) ∧
    (∃ t, isCommand .expand = true ∧ wellFormed begun.nDp .expand = true ∧ begun.fatal = false ∧
      exec .expand begun = .next t) :=
  ⟨⟨_, rfl, rfl, rfl, rfl⟩, ⟨_, rfl, rfl, rfl, rfl⟩⟩

theorem witness_CorruptCoreStaysAtReset : ∃ s t : State, s.Inv ∧ s.fatal = true ∧ step s = .next t :=
  ⟨{ corrupt with hostActions := [.command 0x04000000#32], schedule := [.host] }, _,
    corrupt_inv.withHostSide _ _ _ _, test_reset_fatal_wrong, rfl⟩

/-! ## Witnesses: invariants -/

theorem witness_ResetSatisfiesTheInvariants : Config.default.legal = true ∧
    Config.legal { nDp := 256, roms := fixedRoms } = true := by decide

theorem witness_StepKeepsTheInvariants : (∃ s t : State, s.Inv ∧ s.kbusy = true ∧ step s = .next t) ∧
    (∃ s t : State, s.Inv ∧ (∃ l ∈ s.lanes, l.dbusy = true) ∧ step s = .next t) :=
  ⟨⟨{ begun with schedule := [.kse] }, _, begun_inv.withHostSide _ _ _ _, rfl, rfl⟩,
   ⟨{ session startedLane with schedule := [.lane 0#8] }, _, session_started_inv.withHostSide _ _ _ _,
    ⟨startedLane, List.mem_singleton.mpr rfl, rfl⟩, rfl⟩⟩

theorem witness_InvariantStatesNeverStop : begun.Inv ∧ (session startedLane).Inv ∧ corrupt.Inv :=
  ⟨begun_inv, session_started_inv, corrupt_inv⟩

theorem witness_ConfigurationNeverChanges : ∃ s t : State, step s = .next t :=
  ⟨{ idle with hostActions := [.reset], schedule := [.host] }, _, rfl⟩

theorem witness_ScheduleConstantWhileALaneIsBusy : ∃ s t : State, s.Inv ∧ (∃ l ∈ s.lanes, l.dbusy = true) ∧
    (∀ a ∈ s.hostActions, a.isCommand = true) ∧ step s = .next t :=
  ⟨{ session startedLane with schedule := [.lane 0#8], hostActions := [.command 0x01000000#32] }, _,
    session_started_inv.withHostSide _ _ _ _, ⟨startedLane, List.mem_singleton.mpr rfl, rfl⟩, by decide, rfl⟩

/-! ## Witnesses: what the units compute -/

theorem witness_KeyExpansionRecurrence : ∀ i ∈ [4, 7, 8, 43], 4 ≤ i ∧ i ≤ 43 := by decide

theorem witness_ExpansionComputesTheSchedule : ∃ (s₀ s : State) (turns : List Agent), s₀.Inv ∧ s₀.fatal = false ∧
    s₀.kbusy = false ∧ (∀ l ∈ s₀.lanes, l.dbusy = false) ∧ s₀.keycnt = 16#5 ∧ exec .expand s₀ = .next s ∧
    (∀ a ∈ s.hostActions, a.isCommand = true) ∧ turns.count .kse = 109 :=
  ⟨keyed, _, List.replicate 109 .kse, keyed_inv, rfl, rfl, by decide, rfl, rfl, by decide,
    List.count_replicate_self⟩

theorem witness_TransformComputesTheCipher : ∃ (s₀ s : State) (d : LaneNo) (l : Lane) (turns : List Agent), s₀.Inv ∧
    s₀.fatal = false ∧ s₀.kbusy = false ∧ s₀.kvalid = true ∧ s₀.lanes[d.toNat]? = some l ∧ l.dbusy = false ∧
    l.dincnt = 16#5 ∧ exec (.encrypt d) s₀ = .next s ∧ (∀ a ∈ s.hostActions, a.isCommand = true) ∧
    turns.count (.lane d) = 39 :=
  ⟨session fullLane, _, 0#8, fullLane, .host :: List.replicate 39 (.lane 0#8), session_full_inv, rfl, rfl, rfl, rfl, rfl,
    rfl, rfl, fun _ h => (List.not_mem_nil h).elim, by decide⟩

theorem witness_SixteenPopsReturnTheCiphertext : ∃ (s : State) (d : LaneNo) (l : Lane), s.fatal = false ∧
    s.lanes[d.toNat]? = some l ∧ l.dbusy = false ∧ l.doutvalid = true ∧ l.doutrd = 0#5 :=
  ⟨withLane { Lane.reset with doutvalid := true }, 0#8, _, rfl, rfl, rfl, rfl, rfl⟩

theorem witness_BusyUnitsFinish : (begun.Inv ∧ begun.kbusy = true) ∧
    ((session startedLane).Inv ∧ (session startedLane).lanes[(0#8).toNat]? = some startedLane ∧
      startedLane.dbusy = true) :=
  ⟨⟨begun_inv, rfl⟩, session_started_inv, rfl, rfl⟩

theorem witness_EncryptBlockReturnsTheCiphertext : begun.Inv ∧ begun.fatal = false ∧
    (0#8).toNat < begun.lanes.length := ⟨begun_inv, rfl, by decide⟩

theorem witness_EncryptBlockRejectsWrongLengths :
    (keyed.Inv ∧ keyed.fatal = false ∧ (0#8).toNat < keyed.lanes.length ∧ ([] : List Byte).length ≠ 16) ∧
    (begun.Inv ∧ begun.fatal = false ∧ (0#8).toNat < begun.lanes.length ∧ (List.replicate 17 0#8).length ≠ 16) :=
  ⟨⟨keyed_inv, rfl, by decide, by decide⟩, begun_inv, rfl, by decide, by decide⟩

theorem witness_EncryptNextReusesTheSchedule : (session startedLane).Inv ∧ (session startedLane).fatal = false ∧
    (0#8).toNat < (session startedLane).lanes.length ∧ (session startedLane).kvalid = true :=
  ⟨session_started_inv, rfl, Nat.zero_lt_one, rfl⟩

theorem witness_WaitingPollsEnd : begun.Inv ∧ ((session startedLane).Inv ∧
    (0#8).toNat < (session startedLane).lanes.length) := ⟨begun_inv, session_started_inv, Nat.zero_lt_one⟩

/-! ## Witnesses: concurrency and noninterference -/

theorem witness_StepsOfDifferentAgentsCommute : ∃ (s : State) (a b : Agent), s.Inv ∧ a ≠ b ∧ enabled a s = true ∧
    enabled b s = true ∧ ∃ w acts, s.hostActions = .command w :: acts ∧ wordHeld w s = false ∧
      decode s.nDp (.command w) ≠ .instr .kstat ∧ ∀ d, decode s.nDp (.command w) ≠ .instr (.dstat d) :=
  ⟨{ begun with hostActions := [.command 0x110000ff#32] }, .host, .kse, begun_inv.withHostSide _ _ _ _, by decide,
    by decide, by decide, 0x110000ff#32, [], rfl, by decide, by decide, fun _ h =>
      Instr.noConfusion (Decoded.instr.inj ((show decode 1 (.command 0x110000ff#32) = .instr (.dinpush 0#8 0xff#8) by
        decide).symm.trans h))⟩

/-- Two states in the middle of an expansion that differ in `TEMP`. -/
theorem witness_ControlFlowIndependentOfData : ∃ s t s' : State, s ≠ t ∧ ControlEq s t ∧ step s = .next s' :=
  ⟨{ expanding 4#6 1#3 0#32 with schedule := [.kse] }, { expanding 4#6 1#3 1#32 with schedule := [.kse] }, _, by decide,
    ⟨rfl, .cons ⟨rfl, rfl, rfl, rfl, rfl⟩ .nil, rfl, rfl, rfl, rfl, rfl, rfl, rfl, rfl, rfl⟩, rfl⟩

/-- Two states that differ in a key byte and in the block byte a lane holds. -/
theorem witness_HiddenStateIsNotObservable : ∃ (s t s' : State) (i : Instr), s ≠ t ∧ isCommand i = true ∧
    VisibleEq s t ∧ exec i s = .next s' :=
  ⟨{ keyed with lanes := [fullLane] }, { keyed with keybuf := keyV1, lanes := [{ fullLane with din := plainV1 }] }, _,
    .expand, by decide, rfl, ⟨.cons ⟨rfl, rfl, rfl, rfl, rfl⟩ .nil, rfl, rfl, rfl, rfl, rfl⟩, rfl⟩

end Sys2Proof.Tests
end

section
/-! # The core right after reset (spec/10_state.md R52)

The key side and the length of the lanes are the `@[simp]` lemmas of `State.resetWith`; what R52 adds to them is what
a lane of the reset state is and when `FATAL` is set. -/

namespace Sys2Proof.Machine

theorem tablesOk_eq_true_iff (r : Roms) : tablesOk r = true ↔ TablesOK r := decide_eq_true_iff

/-- `FATAL = not TablesOK` (R52), with the check as the proposition of R68 and not as the bit the core keeps. -/
theorem State.resetWith_fatal_eq_true_iff (c : Config) :
    (State.resetWith c).fatal = true ↔ ¬ TablesOK c.roms := by
  rw [State.resetWith_fatal, Bool.not_eq_true', ← Bool.not_eq_true, tablesOk_eq_true_iff]

theorem State.eq_reset_of_mem_resetWith_lanes {c : Config} {l : Lane} (hl : l ∈ (State.resetWith c).lanes) :
    l = Lane.reset :=
  List.eq_of_mem_replicate (State.resetWith_lanes c ▸ hl)

/-- Settles O11: the key side holds zeros by the lemmas of `State.resetWith`, `FATAL` is the check of the ROMs, and
every lane is `Lane.reset`, whose eight items are zero. -/
theorem resetValues : Obligations.ResetValues := by
  intro c
  have hlength : (State.resetWith c).lanes.length = c.nDp := State.resetWith_nDp c
  exact ⟨State.resetWith_keybuf c, State.resetWith_keycnt c, State.resetWith_w c, State.resetWith_kvalid c,
    State.resetWith_kbusy c, State.resetWith_temp c, State.resetWith_kpc c, State.resetWith_fatal_eq_true_iff c,
    hlength, fun _ hl => State.eq_reset_of_mem_resetWith_lanes hl⟩

end Sys2Proof.Machine
end

section
/-! # The key-side commands (spec/41_key_expansion.md section 2)

KEYCLR, KEYPUSH and EXPAND pass the same two checks of R290 in the same order, `FATAL` and then the hold while any unit
is busy. `keySideGate` names that pair; each command is the gate before its own effect. -/

namespace Sys2Proof.Machine

/-- Checks 2 and 3 of R290 as the three key-side commands make them. -/
def keySideGate (s : State) (k : Result) : Result :=
  unlessFatal s <| holdUntil (!s.kbusy && s.lanesIdle) s k

theorem exec_keyclr_eq_gate (s : State) :
    exec .keyclr s = keySideGate s (.next (s.clearKeySide.answer (responseWord .ok 0#24))) := rfl

theorem exec_keypush_eq_gate (s : State) (b : Byte) :
    exec (.keypush b) s = keySideGate s (.next ((s.pushKey b).answer (responseWord .ok 0#24))) := rfl

theorem exec_expand_eq_gate (s : State) :
    exec .expand s = keySideGate s
      (if s.keycnt ≠ 16#5 then .next (s.answer (responseWord .eKeylen (s.keycnt.zeroExtend 24)))
      else .next (s.beginExpansion.answer (responseWord .ok 0#24))) := rfl

theorem keySideGate_of_fatal {s : State} (k : Result) (hf : s.fatal = true) :
    keySideGate s k = .next (s.answer (responseWord .eFatal 0#24)) := unlessFatal_of_true _ hf

/-- A busy unit, of either kind, holds the command (R292). -/
theorem keySideGate_of_busy {s : State} (k : Result) (hf : s.fatal = false)
    (hb : s.kbusy = true ∨ ∃ l ∈ s.lanes, l.dbusy = true) : keySideGate s k = .next s := by
  have hc : (!s.kbusy && s.lanesIdle) = false := by
    rcases hb with hk | ⟨l, hl, hd⟩
    · rw [hk]; rfl
    · have hl : s.lanesIdle = false := by
        rw [← Bool.not_eq_true, lanesIdle_iff]
        exact fun h => by simp [h l hl] at hd
      rw [hl, Bool.and_false]
  rw [keySideGate, unlessFatal_of_false _ hf, hc, holdUntil_false]

theorem keySideGate_of_idle {s : State} (k : Result) (hf : s.fatal = false) (hk : s.kbusy = false)
    (hl : ∀ l ∈ s.lanes, l.dbusy = false) : keySideGate s k = k := by
  rw [keySideGate, unlessFatal_of_false _ hf, hk, (lanesIdle_iff s).mpr hl, Bool.not_false, Bool.and_true,
    holdUntil_true]

/-- A failure word whose payload is a five-bit count: code, nineteen zeros, count (R103, R281). -/
theorem responseWord_zeroExtend_count (code : ResultCode) (c : BitVec 5) :
    responseWord code (c.zeroExtend 24) = code.bits ++ 0#19 ++ c := by
  have hpayload : c.zeroExtend 24 = 0#19 ++ c := BitVec.setWidth_eq_append (by decide)
  rw [responseWord, hpayload, BitVec.append_assoc, BitVec.cast_eq]

/-- Settles O16: the gate of R290 decides the first two cases, and the third is `State.clearKeySide`. -/
theorem keyclrEndsTheSession : Obligations.KeyclrEndsTheSession := by
  refine ⟨rfl, fun s hf => ?_, fun s hf hb => ?_, fun s hf hk hl => ?_⟩ <;> rw [exec_keyclr_eq_gate]
  · rw [keySideGate_of_fatal _ hf]; rfl
  · exact keySideGate_of_busy _ hf hb
  · rw [keySideGate_of_idle _ hf hk hl]; rfl

/-- Settles O17: past the gate the effect is `State.pushKey`, whose buffer `pushByte_getElem` reads byte by byte. -/
theorem keypushAppendsAKeyByte : Obligations.KeypushAppendsAKeyByte := by
  refine ⟨fun b => ?_, fun s b hf => ?_, fun s b hf hb => ?_, fun s b hf hk hl => ?_⟩
  · rfl
  · rw [exec_keypush_eq_gate, keySideGate_of_fatal _ hf]; rfl
  · rw [exec_keypush_eq_gate, keySideGate_of_busy _ hf hb]
  · refine ⟨pushByte s.keybuf s.keycnt b, ?_, fun j => pushByte_getElem s.keybuf s.keycnt b j j.isLt⟩
    rw [exec_keypush_eq_gate, keySideGate_of_idle _ hf hk hl]; rfl

/-- Settles O18: past the gate the count decides between E_KEYLEN and `State.beginExpansion`, which loads the key
words into words 0 to 3. -/
theorem expandStartsTheEngine : Obligations.ExpandStartsTheEngine := by
  refine ⟨rfl, fun s hf => ?_, fun s hf hb => ?_, fun s hf hk hl hc => ?_, fun s hf hk hl hc => ?_⟩
  · rw [exec_expand_eq_gate, keySideGate_of_fatal _ hf]; rfl
  · rw [exec_expand_eq_gate, keySideGate_of_busy _ hf hb]
  · rw [exec_expand_eq_gate, keySideGate_of_idle _ hf hk hl, if_pos hc, responseWord_zeroExtend_count]; rfl
  · refine ⟨loadKeyWords s.keybuf s.w, ?_, wordAt_loadKeyWords _ _ 0, wordAt_loadKeyWords _ _ 1,
      wordAt_loadKeyWords _ _ 2, wordAt_loadKeyWords _ _ 3, fun j hj => wordAt_loadKeyWords_of_ge _ _ j hj⟩
    rw [exec_expand_eq_gate, keySideGate_of_idle _ hf hk hl, if_neg (not_not_intro hc), State.beginExpansion]; rfl

end Sys2Proof.Machine
end

section
/-! # The micro-operations of the KSE (spec/41_key_expansion.md section 3)

A key micro-operation runs exactly when the engine is busy at that operation's own sequencer value and the value is
legal (R120). One lemma says so for any of the five, by way of its code; what each then does is
its inversion lemma of Laws/Exec. -/

namespace Sys2Proof.Machine

theorem kpcBits_inj {r r' : BitVec 6} {ph ph' : BitVec 3} (h : kpcBits r ph = kpcBits r' ph') :
    r = r' ∧ ph = ph' := by
  refine ⟨?_, ?_⟩
  · rw [← kidx_kpcBits r ph, h, kidx_kpcBits]
  · rw [← kph_kpcBits r ph, h, kph_kpcBits]

/-- The KSE runs `i` next exactly when it is busy at the sequencer value that encodes `i`, a legal one (R120). -/
theorem kseNext_eq_some_iff_of_encode {s : State} {i : Instr} {r : BitVec 6} {ph : BitVec 3}
    (hround : Laws.RoundTrip.Statement i) (hcode : encode i = .kpc (kpcBits r ph)) :
    kseNext s = some i ↔ s.kbusy = true ∧ s.kpc = ⟨r, ph⟩ ∧ wellFormed s.nDp i = true := by
  constructor
  · intro h
    obtain ⟨hb, hsel⟩ := kseNext_at h
    rcases hsel with ⟨_, hk, hw, rfl⟩ | ⟨_, hk, hw, rfl⟩ | ⟨_, hk, hw, rfl⟩ | ⟨_, hk, hw, rfl⟩ |
      ⟨_, hk, hw, rfl⟩ <;>
    · obtain ⟨rfl, rfl⟩ := kpcBits_inj (Code.kpc.inj hcode)
      exact ⟨hb, hk, hw⟩
  · rintro ⟨hb, hk, hw⟩
    have hdecode := hround s.nDp hw
    rw [hcode] at hdecode
    exact (kseNext_of_kpc hb hk i).mpr hdecode

section
variable {s : State} {r : BitVec 6}

theorem kseNext_eq_kld_iff :
    kseNext s = some (.kld r) ↔ s.kbusy = true ∧ s.kpc = ⟨r, 0#3⟩ ∧ 4 ≤ r.toNat ∧ r.toNat ≤ 43 := by
  rw [kseNext_eq_some_iff_of_encode (Laws.RoundTrip.kld r) rfl, wellFormed, kidxLegal_iff]

theorem kseNext_eq_krot_iff : kseNext s = some (.krot r) ↔
    s.kbusy = true ∧ s.kpc = ⟨r, 1#3⟩ ∧ 4 ≤ r.toNat ∧ r.toNat ≤ 40 ∧ r.toNat % 4 = 0 := by
  rw [kseNext_eq_some_iff_of_encode (Laws.RoundTrip.krot r) rfl, wellFormed, kidxRoundLegal_iff]

theorem kseNext_eq_ksub_iff : kseNext s = some (.ksub r) ↔
    s.kbusy = true ∧ s.kpc = ⟨r, 2#3⟩ ∧ 4 ≤ r.toNat ∧ r.toNat ≤ 40 ∧ r.toNat % 4 = 0 := by
  rw [kseNext_eq_some_iff_of_encode (Laws.RoundTrip.ksub r) rfl, wellFormed, kidxRoundLegal_iff]

theorem kseNext_eq_krc_iff : kseNext s = some (.krc r) ↔
    s.kbusy = true ∧ s.kpc = ⟨r, 3#3⟩ ∧ 4 ≤ r.toNat ∧ r.toNat ≤ 40 ∧ r.toNat % 4 = 0 := by
  rw [kseNext_eq_some_iff_of_encode (Laws.RoundTrip.krc r) rfl, wellFormed, kidxRoundLegal_iff]

theorem kseNext_eq_kst_iff :
    kseNext s = some (.kst r) ↔ s.kbusy = true ∧ s.kpc = ⟨r, 4#3⟩ ∧ 4 ≤ r.toNat ∧ r.toNat ≤ 43 := by
  rw [kseNext_eq_some_iff_of_encode (Laws.RoundTrip.kst r) rfl, wellFormed, kidxLegal_iff]

end

/-- `RotWord` is `TEMP[23:0] ## TEMP[31:24]` (R161). -/
theorem rotWord_eq_extractLsb' (t : Word) : rotWord t = t.extractLsb' 0 24 ++ t.extractLsb' 24 8 := by
  apply BitVec.eq_of_getLsbD_eq
  intro i hi
  simp only [rotWord, packWord, byteOf, BitVec.getLsbD_append, BitVec.getLsbD_extractLsb']
  interval_cases i <;> simp

/-- `SubWord` by the bits of its argument, bit 31 first (R162). -/
theorem subWord_eq_extractLsb' (roms : Roms) (t : Word) :
    subWord roms t = roms.sboxAt (t.extractLsb' 24 8) ++ roms.sboxAt (t.extractLsb' 16 8) ++
      roms.sboxAt (t.extractLsb' 8 8) ++ roms.sboxAt (t.extractLsb' 0 8) := rfl

/-- Settles O19: KLD runs where it is selected, and `TEMP` and `KPC` are all it sets. -/
theorem kldLoadsThePreviousWord : Obligations.KldLoadsThePreviousWord := by
  refine ⟨fun _ => rfl, fun s t r h => ?_, fun s r h4 h43 hb hk => ?_⟩
  · exact kseNext_eq_kld_iff.mp (exec_kld_next.mp h).1
  · exact exec_kld_next.mpr ⟨kseNext_eq_kld_iff.mpr ⟨hb, hk, h4, h43⟩, rfl⟩

/-- Settles O20: KROT runs where it is selected, and the four bytes `RotWord` packs are the two parts of `TEMP`. -/
theorem krotRotatesTemp : Obligations.KrotRotatesTemp := by
  refine ⟨fun _ => rfl, fun s t r h => ?_, fun s r h4 h40 hm hb hk => ?_⟩
  · exact kseNext_eq_krot_iff.mp (exec_krot_next.mp h).1
  · rw [← rotWord_eq_extractLsb']
    exact exec_krot_next.mpr ⟨kseNext_eq_krot_iff.mpr ⟨hb, hk, h4, h40, hm⟩, rfl⟩

/-- Settles O21: KSUB runs where it is selected, and `SubWord` reads the ROM at each byte of `TEMP`. -/
theorem ksubSubstitutesTemp : Obligations.KsubSubstitutesTemp := by
  refine ⟨fun _ => rfl, fun s t r h => ?_, fun s r h4 h40 hm hb hk => ?_⟩
  · exact kseNext_eq_ksub_iff.mp (exec_ksub_next.mp h).1
  · rw [← subWord_eq_extractLsb']
    exact exec_ksub_next.mpr ⟨kseNext_eq_ksub_iff.mpr ⟨hb, hk, h4, h40, hm⟩, rfl⟩

/-- Settles O22: KRC runs where it is selected, and the round constant it reads is number r/4. -/
theorem krcAddsTheRoundConstant : Obligations.KrcAddsTheRoundConstant := by
  refine ⟨fun _ => rfl, fun s t r h => ?_, fun s r h4 h40 hm hb hk => ?_⟩
  · exact kseNext_eq_krc_iff.mp (exec_krc_next.mp h).1
  · exact exec_krc_next.mpr ⟨kseNext_eq_krc_iff.mpr ⟨hb, hk, h4, h40, hm⟩, rfl⟩

/-- Settles O23: KST runs where it is selected; its store is one `setWord`, below r = 43 with the advance to the next
word and at r = 43 with the end of the expansion. -/
theorem kstStoresTheWord : Obligations.KstStoresTheWord := by
  refine ⟨fun _ => rfl, fun s t r h => ?_, fun s r h4 h43 hb hk => ?_⟩
  · exact kseNext_eq_kst_iff.mp (exec_kst_next.mp h).1
  · have hsel : kseNext s = some (.kst r) := kseNext_eq_kst_iff.mpr ⟨hb, hk, h4, h43⟩
    refine ⟨setWord s.w r.toNat (wordAt s.w (r.toNat - 4) ^^^ s.temp), wordAt_setWord_self _ _ _ (by omega),
      fun j hj => wordAt_setWord_ne _ _ _ _ hj.symm, fun hlt => ?_, fun hlast => ?_⟩
    · exact exec_kst_next.mpr ⟨hsel, by rw [if_pos hlt]; rfl⟩
    · exact exec_kst_next.mpr ⟨hsel, by rw [if_neg (by omega)]; rfl⟩

end Sys2Proof.Machine
end

section
/-! # The words of the schedule (spec/41_key_expansion.md R164) -/

namespace Sys2Proof.Machine

/-- Byte `m` of key word `i` is key byte `4i + m` (R71). -/
theorem byteOf_keyWord (k : Block) (i m : Fin 4) : byteOf (keyWord k i) m = k[4 * i.val + m.val] := by
  unfold keyWord
  match m with
  | 0 => exact byteOf_packWord_zero _ _ _ _
  | 1 => exact byteOf_packWord_one _ _ _ _
  | 2 => exact byteOf_packWord_two _ _ _ _
  | 3 => exact byteOf_packWord_three _ _ _ _

/-- The first four words of the schedule are the key words. -/
theorem wordAt_keyExpansion_key (r : Roms) (k : Block) (i : Fin 4) : wordAt (keyExpansion r k) i = keyWord k i := by
  rw [wordAt_keyExpansion_of_lt r k 0 i (by omega) (by omega), expandWords, wordAt_loadKeyWords]

/-- The derived word number `n` is `nextWord` of the finished schedule: the words it reads are already there when it is
written and stay. -/
theorem wordAt_keyExpansion_derived (r : Roms) (k : Block) (n : Nat) (hn : n < 40) :
    wordAt (keyExpansion r k) (n + 4) = nextWord r (keyExpansion r k) (n + 4) := by
  have hword : wordAt (keyExpansion r k) (n + 4) = nextWord r (expandWords r k n) (n + 4) := by
    rw [wordAt_keyExpansion_of_lt r k (n + 1) (n + 4) (by omega) (by omega), expandWords,
      wordAt_setWord_self _ _ _ (by omega)]
  have hread (j : Nat) (hj : j < n + 4) : wordAt (expandWords r k n) j = wordAt (keyExpansion r k) j :=
    (wordAt_keyExpansion_of_lt r k n j (by omega) hj).symm
  rw [hword, nextWord, nextWord, hread _ (by omega), hread _ (by omega)]

/-- Settles O47: round key 0 is the key words byte by byte, and every later word is `nextWord` of the schedule. -/
theorem keyExpansionRecurrence : Obligations.KeyExpansionRecurrence := by
  refine fun r k => ⟨fun j => ?_, fun i h4 h43 => ?_⟩
  · have hword := wordAt_keyExpansion_key r k ⟨j.val / 4, by omega⟩
    have hbyte := byteOf_keyWord k ⟨j.val / 4, by omega⟩ ⟨j.val % 4, by omega⟩
    simp only at hword hbyte
    rw [hword, hbyte]
    simp only [Nat.div_add_mod, Fin.getElem_fin]
  · obtain ⟨n, rfl⟩ : ∃ n, i = n + 4 := ⟨i - 4, by omega⟩
    exact wordAt_keyExpansion_derived r k n (by omega)

end Sys2Proof.Machine
end

section
/-! # The micro-operations of a lane (spec/42_block_transform.md section 3)

A lane's micro-operation runs exactly when the lane is busy at that operation's own sequencer value and the round number
is legal (R120). One lemma says so for any of the four, by way of its code. What each then does is its inversion lemma
of Laws/Exec, with the functions of section 1 read byte by byte. -/

namespace Sys2Proof.Machine

theorem dpcBits_inj {n n' : BitVec 4} {ph ph' : BitVec 2} (h : dpcBits n ph = dpcBits n' ph') :
    n = n' ∧ ph = ph' := by
  refine ⟨?_, ?_⟩
  · rw [← rnd_dpcBits n ph, h, rnd_dpcBits]
  · rw [← ph_dpcBits n ph, h, ph_dpcBits]

/-- Lane `d` runs `i` next exactly when it is busy at the sequencer value that encodes `i`, with a legal round number
(R120). That the lane exists, which well-formedness also asks for, is then no condition of its own. -/
theorem laneNext_eq_some_iff_of_encode {s : State} {d : LaneNo} {i : Instr} {n : BitVec 4} {ph : BitVec 2}
    {legal : Bool} (hround : Laws.RoundTrip.Statement i) (hcode : encode i = .dpc d (dpcBits n ph))
    (hwf : wellFormed s.nDp i = (laneLegal s.nDp d && legal)) :
    laneNext s d = some i ↔
      legal = true ∧ ∃ l, s.lanes[d.toNat]? = some l ∧ l.dbusy = true ∧ l.dpc = ⟨n, ph⟩ := by
  constructor
  · intro h
    obtain ⟨l, m, hl, hb, hsel⟩ := laneNext_at h
    rw [laneLegal_of_lane? hl, Bool.true_and] at hwf
    rw [← hwf]
    rcases hsel with ⟨hk, hm, rfl⟩ | ⟨hk, hm, rfl⟩ | ⟨hk, hm, rfl⟩ | ⟨hk, hm, rfl⟩ <;>
    · obtain ⟨rfl, rfl⟩ := dpcBits_inj (Code.dpc.inj hcode).2
      rw [wellFormed, laneLegal_of_lane? hl, Bool.true_and]
      exact ⟨hm, l, hl, hb, hk⟩
  · rintro ⟨hlegal, l, hl, hb, hk⟩
    have hd : laneLegal s.nDp d = true := laneLegal_of_lane? hl
    have hdecode := hround s.nDp (by rw [hwf, hd, hlegal]; rfl)
    rw [hcode, decode, if_pos hd] at hdecode
    exact (laneNext_of_dpc hl hb hk i).mpr hdecode

section
variable {s : State} {d : LaneNo} {n : BitVec 4}

theorem laneNext_eq_sb_iff : laneNext s d = some (.sb d n) ↔
    1 ≤ n.toNat ∧ n.toNat ≤ 10 ∧ ∃ l, s.lanes[d.toNat]? = some l ∧ l.dbusy = true ∧ l.dpc = ⟨n, 0#2⟩ := by
  rw [laneNext_eq_some_iff_of_encode (Laws.RoundTrip.sb d n) rfl rfl, rndLegal_iff, and_assoc]

theorem laneNext_eq_sr_iff : laneNext s d = some (.sr d n) ↔
    1 ≤ n.toNat ∧ n.toNat ≤ 10 ∧ ∃ l, s.lanes[d.toNat]? = some l ∧ l.dbusy = true ∧ l.dpc = ⟨n, 1#2⟩ := by
  rw [laneNext_eq_some_iff_of_encode (Laws.RoundTrip.sr d n) rfl rfl, rndLegal_iff, and_assoc]

theorem laneNext_eq_mc_iff : laneNext s d = some (.mc d n) ↔
    1 ≤ n.toNat ∧ n.toNat ≤ 9 ∧ ∃ l, s.lanes[d.toNat]? = some l ∧ l.dbusy = true ∧ l.dpc = ⟨n, 2#2⟩ := by
  rw [laneNext_eq_some_iff_of_encode (Laws.RoundTrip.mc d n) rfl rfl, rndMixLegal_iff, and_assoc]

theorem laneNext_eq_ark_iff : laneNext s d = some (.ark d n) ↔
    n.toNat ≤ 10 ∧ ∃ l, s.lanes[d.toNat]? = some l ∧ l.dbusy = true ∧ l.dpc = ⟨n, 3#2⟩ := by
  rw [laneNext_eq_some_iff_of_encode (Laws.RoundTrip.ark d n) rfl rfl, rndKeyLegal_iff]

end

/-! ## The four functions, byte by byte -/

theorem addRoundKey_getElem (s : Block) (w : Schedule) (k : Nat) (j : Fin 16) :
    (addRoundKey s w k)[j] = s[j] ^^^ roundKeyByte w k j.val := by simp [addRoundKey]

theorem subBytes_getElem (r : Roms) (s : Block) (j : Fin 16) : (subBytes r s)[j] = r.sboxAt s[j] := by
  simp [subBytes]

/-- By row `r` and column `c`, ShiftRows reads row `r`, column `(c + r) mod 4` (R203). -/
theorem shiftRows_getElem? (s : Block) (r c : Fin 4) :
    (shiftRows s)[r.val + 4 * c.val]? = s[r.val + 4 * ((c.val + r.val) % 4)]? := by
  have hsource : (shiftSource ⟨r.val + 4 * c.val, by omega⟩).val = r.val + 4 * ((c.val + r.val) % 4) := by
    simp only [shiftSource]
    omega
  rw [Vector.getElem?_eq_getElem (by omega), Vector.getElem?_eq_getElem (by omega)]
  simp [shiftRows, hsource]

/-- Byte `i` of column `c` is row `i` of the matrix times column `c` (R204). -/
theorem mixColumns_getElem? {s : Block} {c : Fin 4} {a0 a1 a2 a3 : Byte} (h0 : s[4 * c.val]? = some a0)
    (h1 : s[4 * c.val + 1]? = some a1) (h2 : s[4 * c.val + 2]? = some a2) (h3 : s[4 * c.val + 3]? = some a3)
    (i : Fin 4) : (mixColumns s)[4 * c.val + i.val]? = some (mixRow a0 a1 a2 a3 i.val) := by
  have hcolumn : (4 * c.val + i.val) / 4 = c.val := by omega
  have hrow : (4 * c.val + i.val) % 4 = i.val := by omega
  obtain ⟨_, rfl⟩ := Vector.getElem?_eq_some_iff.mp h0
  obtain ⟨_, rfl⟩ := Vector.getElem?_eq_some_iff.mp h1
  obtain ⟨_, rfl⟩ := Vector.getElem?_eq_some_iff.mp h2
  obtain ⟨_, rfl⟩ := Vector.getElem?_eq_some_iff.mp h3
  rw [Vector.getElem?_eq_getElem (by omega)]
  simp [mixColumns, hcolumn, hrow]

/-- The advance of R41 from SR over the legal round numbers: beyond 9 there is only 10. -/
theorem nextDpc_sr_of_le (n : BitVec 4) (h : n.toNat ≤ 10) :
    nextDpc n 1#2 = if n.toNat ≤ 9 then ⟨n, 2#2⟩ else ⟨10#4, 3#2⟩ := by
  rw [nextDpc_sr]
  split
  · rfl
  · rw [show n = 10#4 by bv_omega]

/-! ## The four obligations -/

/-- Settles O28: ARK runs where it is selected; below n = 10 the sum goes to the State with the advance to the next
round, and at n = 10 it is the ciphertext with which `Lane.finish` ends the transform. -/
theorem arkAddsTheRoundKey : Obligations.ArkAddsTheRoundKey := by
  refine ⟨fun _ _ => rfl, fun s t d n h => ?_, fun s d n l h10 hl hb hk => ?_⟩
  · exact laneNext_eq_ark_iff.mp (exec_ark_next.mp h).1
  · have hsel : laneNext s d = some (.ark d n) := laneNext_eq_ark_iff.mpr ⟨h10, l, hl, hb, hk⟩
    refine ⟨addRoundKey l.s s.w n.toNat, addRoundKey_getElem l.s s.w n.toNat, fun hlt => ?_, fun hlast => ?_⟩
    · exact exec_ark_next.mpr ⟨hsel, l, hl, by rw [if_pos hlt]; rfl⟩
    · exact exec_ark_next.mpr ⟨hsel, l, hl, by rw [if_neg (by omega)]; rfl⟩

/-- Settles O30: SR runs where it is selected; ShiftRows by row and column, and the advance skips MC after round 10. -/
theorem srShiftsTheRows : Obligations.SrShiftsTheRows := by
  refine ⟨fun _ _ => rfl, fun s t d n h => ?_, fun s d n l h1 h10 hl hb hk => ?_⟩
  · exact laneNext_eq_sr_iff.mp (exec_sr_next.mp h).1
  · refine ⟨shiftRows l.s, shiftRows_getElem? l.s, ?_⟩
    rw [← nextDpc_sr_of_le n h10]
    exact exec_sr_next.mpr ⟨laneNext_eq_sr_iff.mpr ⟨h1, h10, l, hl, hb, hk⟩, l, hl, rfl⟩

/-- Settles O31: MC runs where it is selected; the four bytes of a column are the four rows of the matrix times the
old column. -/
theorem mcMixesTheColumns : Obligations.McMixesTheColumns := by
  refine ⟨fun _ _ => rfl, fun s t d n h => ?_, fun s d n l h1 h9 hl hb hk => ?_⟩
  · exact laneNext_eq_mc_iff.mp (exec_mc_next.mp h).1
  · refine ⟨mixColumns l.s, fun c a0 a1 a2 a3 ha0 ha1 ha2 ha3 => ?_, ?_⟩
    · have hrow := mixColumns_getElem? ha0 ha1 ha2 ha3
      exact ⟨hrow 0, hrow 1, hrow 2, hrow 3⟩
    · exact exec_mc_next.mpr ⟨laneNext_eq_mc_iff.mpr ⟨h1, h9, l, hl, hb, hk⟩, l, hl, rfl⟩

/-- Settles O29: SB runs where it is selected, and `subBytes` reads the ROM at each byte of the State. -/
theorem sbSubstitutesTheState : Obligations.SbSubstitutesTheState := by
  refine ⟨fun _ _ => rfl, fun s t d n h => ?_, fun s d n l h1 h10 hl hb hk => ?_⟩
  · exact laneNext_eq_sb_iff.mp (exec_sb_next.mp h).1
  · exact ⟨subBytes s.roms l.s, subBytes_getElem s.roms l.s,
      exec_sb_next.mpr ⟨laneNext_eq_sb_iff.mpr ⟨h1, h10, l, hl, hb, hk⟩, l, hl, rfl⟩⟩

end Sys2Proof.Machine
end

section
/-! # The control commands (spec/43_control_commands.md section 1)

A response word is its code above its payload, so a field of a status word is read off the payload. -/

namespace Sys2Proof.Machine

section
variable (code : ResultCode) (v : BitVec 24)

theorem responseWord_extractLsb'_code : (responseWord code v).extractLsb' 24 8 = code.bits :=
  BitVec.extractLsb'_append_eq_left

theorem responseWord_extractLsb'_payload {i n : Nat} (h : i + n ≤ 24) :
    (responseWord code v).extractLsb' i n = v.extractLsb' i n :=
  BitVec.extractLsb'_append_eq_of_add_le h

theorem getLsbD_responseWord {i : Nat} (h : i < 24) : (responseWord code v).getLsbD i = v.getLsbD i := by
  rw [responseWord, BitVec.getLsbD_append, if_pos h]

end

theorem getLsbD_flagBit (b : Bool) (i : Nat) : (flagBit b).getLsbD i = (decide (i = 0) && b) := by
  cases b <;> simp [flagBit]

/-- The table of R46, bit by bit: KEYCNT from bit 8 up, the three flags in bits 2 to 0. -/
theorem getLsbD_keyStatus (s : State) (i : Nat) : (keyStatus s).getLsbD i =
    (decide (8 ≤ i) && s.keycnt.getLsbD (i - 8) || decide (i = 2) && s.fatal || decide (i = 1) && s.kbusy ||
      decide (i = 0) && s.kvalid) := by
  simp only [keyStatus, BitVec.getLsbD_or, BitVec.getLsbD_shiftLeft, BitVec.getLsbD_setWidth, getLsbD_flagBit]
  grind

/-- Above the flags there are only the bits of KEYCNT. -/
theorem getLsbD_keyStatus_of_ge (s : State) {i : Nat} (h : 3 ≤ i) :
    (keyStatus s).getLsbD i = (decide (8 ≤ i) && s.keycnt.getLsbD (i - 8)) := by
  have hfatal : i ≠ 2 := by omega
  have hbusy : i ≠ 1 := by omega
  have hvalid : i ≠ 0 := by omega
  simp [getLsbD_keyStatus, hfatal, hbusy, hvalid]

theorem keyStatus_extractLsb'_keycnt (s : State) : (keyStatus s).extractLsb' 8 5 = s.keycnt := by
  apply BitVec.eq_of_getLsbD_eq
  intro j hj
  simp [getLsbD_keyStatus_of_ge s (show 3 ≤ 8 + j by omega), hj]

/-- The zero fields of R46: a part above the flags that does not meet bits 12:8. -/
theorem keyStatus_extractLsb'_eq_zero (s : State) {i n : Nat} (hflags : 3 ≤ i) (hcount : i + n ≤ 8 ∨ 13 ≤ i) :
    (keyStatus s).extractLsb' i n = 0#n := by
  apply BitVec.eq_of_getLsbD_eq
  intro j hj
  rw [BitVec.getLsbD_extractLsb', getLsbD_keyStatus_of_ge s (by omega), BitVec.getLsbD_zero]
  rcases hcount with hbelow | habove
  · rw [decide_eq_false (by omega : ¬ 8 ≤ i + j), Bool.false_and, Bool.and_false]
  · rw [BitVec.getLsbD_of_ge _ _ (by omega), Bool.and_false, Bool.and_false]

/-- Settles O14: KSTAT answers code 0 over the key status word, whose fields are those of R46. -/
theorem kstatAnswersKeyStatus : Obligations.KstatAnswersKeyStatus := by
  refine ⟨rfl, fun s => ⟨responseWord .ok (keyStatus s), exec_kstat s, responseWord_extractLsb'_code _ _,
    ?kvalid, ?kbusy, ?fatal, ?zero7to3, ?keycnt, ?zero23to13⟩⟩
  case kvalid => rw [getLsbD_responseWord _ _ (by decide), getLsbD_keyStatus]; simp
  case kbusy => rw [getLsbD_responseWord _ _ (by decide), getLsbD_keyStatus]; simp
  case fatal => rw [getLsbD_responseWord _ _ (by decide), getLsbD_keyStatus]; simp
  case zero7to3 =>
    rw [responseWord_extractLsb'_payload _ _ (by decide), keyStatus_extractLsb'_eq_zero s (by decide) (by decide)]
  case keycnt => rw [responseWord_extractLsb'_payload _ _ (by decide), keyStatus_extractLsb'_keycnt]
  case zero23to13 =>
    rw [responseWord_extractLsb'_payload _ _ (by decide), keyStatus_extractLsb'_eq_zero s (by decide) (by decide)]

/-- Settles O13: NOP answers code 0 with payload 0, and that word is 0x00000000. -/
theorem nopAnswersZero : Obligations.NopAnswersZero :=
  ⟨rfl, exec_nop⟩

end Sys2Proof.Machine
end

section
/-! # Decoding and encoding (spec/30_encoding.md sections 2 to 5)

A word is its four fields (R101), so a row of the command table is a condition on the fields: its `op`, a zero `mbz`,
and a zero for each field its format fixes. Rows are told apart by their `op` alone. -/

namespace Sys2Proof

/-- Settles O1: the round trip of each of the nineteen instructions stands in Laws/PerInstr. -/
theorem decodeOfEncode : Obligations.DecodeOfEncode := by
  intro nDp i hw
  cases i with
  | nop => exact Laws.RoundTrip.nop nDp hw
  | keyclr => exact Laws.RoundTrip.keyclr nDp hw
  | keypush b => exact Laws.RoundTrip.keypush b nDp hw
  | expand => exact Laws.RoundTrip.expand nDp hw
  | kstat => exact Laws.RoundTrip.kstat nDp hw
  | dinclr d => exact Laws.RoundTrip.dinclr d nDp hw
  | dinpush d b => exact Laws.RoundTrip.dinpush d b nDp hw
  | encrypt d => exact Laws.RoundTrip.encrypt d nDp hw
  | doutpop d => exact Laws.RoundTrip.doutpop d nDp hw
  | dstat d => exact Laws.RoundTrip.dstat d nDp hw
  | kld r => exact Laws.RoundTrip.kld r nDp hw
  | krot r => exact Laws.RoundTrip.krot r nDp hw
  | ksub r => exact Laws.RoundTrip.ksub r nDp hw
  | krc r => exact Laws.RoundTrip.krc r nDp hw
  | kst r => exact Laws.RoundTrip.kst r nDp hw
  | sb d n => exact Laws.RoundTrip.sb d n nDp hw
  | sr d n => exact Laws.RoundTrip.sr d n nDp hw
  | mc d n => exact Laws.RoundTrip.mc d n nDp hw
  | ark d n => exact Laws.RoundTrip.ark d n nDp hw

/-! ## The row of an `op` -/

/-- What a row of R104 with the fields `d` and `b` says of its instruction: the encoder gives back the row's `op` with
the fields the format leaves free, and the instruction is well-formed where its lane exists. -/
theorem encode_of_commandOf {op : BitVec 8} {d : LaneNo} {b : Byte} {f : Format} {i : Instr}
    (h : commandOf op d b = some (f, i)) :
    encode i = .command (commandWord op (if f.noLane then 0#8 else d) (if f.noImm then 0#8 else b)) ∧
      ∀ nDp, wellFormed nDp i = (f.noLane || laneLegal nDp d) := by
  unfold commandOf at h
  repeat (obtain ⟨rfl, h⟩ | ⟨-, h⟩ := ite_eq_iff.mp h; · cases h; exact ⟨rfl, fun _ => rfl⟩)
  cases h

theorem encode_of_decodeCommand {nDp : Nat} {w : Word} {i : Instr} (h : decodeCommand nDp w = .instr i) :
    encode i = .command w ∧ wellFormed nDp i = true := by
  obtain ⟨hmbz, f, hrow, hlane, himm, hlegal⟩ := decodeCommand_eq_instr h
  obtain ⟨hencode, hwf⟩ := encode_of_commandOf hrow
  constructor
  · rw [hencode, ite_eq_right_iff.mpr fun hn => (hlane hn).symm, ite_eq_right_iff.mpr fun hn => (himm hn).symm,
      commandWord_fields w hmbz]
  · rw [hwf nDp]
    cases hn : f.noLane with
    | true => rfl
    | false => exact hlegal hn

theorem encode_of_decodeKpc {r : BitVec 6} {ph : BitVec 3} {i : Instr} (h : decodeKpc (kpcBits r ph) = .instr i)
    (nDp : Nat) : encode i = .kpc (kpcBits r ph) ∧ wellFormed nDp i = true := by
  rcases (decodeKpc_eq_instr r ph i).mp h with ⟨rfl, hr, rfl⟩ | ⟨rfl, hr, rfl⟩ | ⟨rfl, hr, rfl⟩ | ⟨rfl, hr, rfl⟩ |
    ⟨rfl, hr, rfl⟩ <;> exact ⟨rfl, hr⟩

theorem encode_of_decodeDpc {d : LaneNo} {n : BitVec 4} {ph : BitVec 2} {i : Instr}
    (h : decodeDpc d (dpcBits n ph) = .instr i) {nDp : Nat} (hd : laneLegal nDp d = true) :
    encode i = .dpc d (dpcBits n ph) ∧ wellFormed nDp i = true := by
  rcases (decodeDpc_eq_instr d n ph i).mp h with ⟨rfl, hn, rfl⟩ | ⟨rfl, hn, rfl⟩ | ⟨rfl, hn, rfl⟩ | ⟨rfl, hn, rfl⟩ <;>
    exact ⟨rfl, by rw [wellFormed, hd, hn]; rfl⟩

/-- Settles O2: a code is made of its fields, and what decodes has them all. -/
theorem encodeOfDecode : Obligations.EncodeOfDecode := by
  intro nDp c i h
  cases c with
  | command w => exact encode_of_decodeCommand h
  | kpc v =>
    rw [← kpcBits_fields v] at h ⊢
    exact encode_of_decodeKpc h nDp
  | dpc d v =>
    rw [decode] at h
    split at h
    · rename_i hd
      rw [← dpcBits_fields v] at h ⊢
      exact encode_of_decodeDpc h hd
    · cases h

/-! ## The command table -/

theorem word_eq_iff_fields (v w : Word) : v = w ↔
    fieldOp v = fieldOp w ∧ fieldLane v = fieldLane w ∧ fieldMbz v = fieldMbz w ∧ fieldImm v = fieldImm w := by
  constructor
  · rintro rfl; exact ⟨rfl, rfl, rfl, rfl⟩
  · rintro ⟨hop, hlane, hmbz, himm⟩
    have hfields (x : Word) : fieldOp x ++ fieldLane x ++ fieldMbz x ++ fieldImm x = x := by
      apply BitVec.eq_of_getLsbD_eq
      intro i hi
      simp only [fieldOp, fieldLane, fieldMbz, fieldImm, BitVec.getLsbD_extractLsb', BitVec.getLsbD_append]
      interval_cases i <;> simp
    rw [← hfields v, hop, hlane, hmbz, himm, hfields]

section
variable (v w : Word)
@[simp] theorem fieldOp_and : fieldOp (v &&& w) = fieldOp v &&& fieldOp w := BitVec.extractLsb'_and
@[simp] theorem fieldLane_and : fieldLane (v &&& w) = fieldLane v &&& fieldLane w := BitVec.extractLsb'_and
@[simp] theorem fieldMbz_and : fieldMbz (v &&& w) = fieldMbz v &&& fieldMbz w := BitVec.extractLsb'_and
@[simp] theorem fieldImm_and : fieldImm (v &&& w) = fieldImm v &&& fieldImm w := BitVec.extractLsb'_and
end

/-- What a row's format and its two words have to do with each other (R102, R104): the mask covers `op`, `mbz` and the
fields the format fixes, and the match is the `op`. -/
def CommandRow.Regular (row : CommandRow) : Prop :=
  row.matchBits = commandWord (fieldOp row.matchBits) 0#8 0#8 ∧
  fieldOp row.mask = BitVec.allOnes 8 ∧ fieldMbz row.mask = BitVec.allOnes 8 ∧
  fieldLane row.mask = (if row.format.noLane then BitVec.allOnes 8 else 0#8) ∧
  fieldImm row.mask = (if row.format.noImm then BitVec.allOnes 8 else 0#8)

theorem regular_of_mem_commandTable : ∀ row ∈ commandTable, row.Regular := by
  unfold CommandRow.Regular
  decide

theorem and_mask_eq_zero_iff (c : Bool) (x : BitVec 8) :
    x &&& (if c then BitVec.allOnes 8 else 0#8) = 0#8 ↔ (c = true → x = 0#8) := by
  cases c with
  | false => simp
  | true => rw [if_pos rfl, BitVec.and_allOnes]; simp

theorem CommandRow.Regular.matches_iff {row : CommandRow} (h : row.Regular) (w : Word) :
    row.matches w = true ↔ fieldOp w = fieldOp row.matchBits ∧ fieldMbz w = 0#8 ∧
      (row.format.noLane = true → fieldLane w = 0#8) ∧ (row.format.noImm = true → fieldImm w = 0#8) := by
  obtain ⟨hmatch, hop, hmbz, hlane, himm⟩ := h
  rw [CommandRow.matches, beq_iff_eq, word_eq_iff_fields, fieldOp_and, fieldLane_and, fieldMbz_and, fieldImm_and,
    hop, hmbz, hlane, himm, hmatch, fieldOp_commandWord, fieldLane_commandWord, fieldMbz_commandWord,
    fieldImm_commandWord, and_mask_eq_zero_iff, and_mask_eq_zero_iff, BitVec.and_allOnes, BitVec.and_allOnes]
  tauto

/-- The decoder's rows are those of the command table. -/
theorem commandOf_isSome_iff (op : BitVec 8) (d : LaneNo) (b : Byte) (f : Format) :
    (∃ i, commandOf op d b = some (f, i)) ↔ ∃ row ∈ commandTable, fieldOp row.matchBits = op ∧ row.format = f := by
  constructor
  · rintro ⟨i, h⟩
    unfold commandOf at h
    repeat (obtain ⟨rfl, h⟩ | ⟨-, h⟩ := ite_eq_iff.mp h; · cases h; decide)
    cases h
  · rintro ⟨row, hrow, rfl, rfl⟩
    fin_cases hrow <;> exact ⟨_, rfl⟩

theorem Format.noLane_eq_false_iff (f : Format) : f.noLane = false ↔ f = .l ∨ f = .lb := by
  cases f <;> decide

/-- A word decodes exactly when its `op` has a row whose fixed fields are zero in it and whose lane exists (R110). -/
theorem decodeCommand_isInstr_iff (nDp : Nat) (w : Word) : (∃ i, decodeCommand nDp w = .instr i) ↔
    fieldMbz w = 0#8 ∧ ∃ f i, commandOf (fieldOp w) (fieldLane w) (fieldImm w) = some (f, i) ∧
      (f.noLane = true → fieldLane w = 0#8) ∧ (f.noImm = true → fieldImm w = 0#8) ∧
      (f.noLane = false → laneLegal nDp (fieldLane w) = true) := by
  constructor
  · rintro ⟨i, h⟩
    obtain ⟨hmbz, f, h⟩ := decodeCommand_eq_instr h
    exact ⟨hmbz, f, i, h⟩
  · rintro ⟨hmbz, f, i, hrow, hlane, himm, hlegal⟩
    refine ⟨i, ?_⟩
    rw [decodeCommand, if_neg (not_not_intro hmbz), hrow]
    cases hl : f.noLane <;> cases hi : f.noImm <;> simp_all

/-- Settles O3: both sides speak of the word's fields and of the row of its `op`, and no two rows share an `op`. -/
theorem decodingIsTheCommandTable : Obligations.DecodingIsTheCommandTable := by
  refine ⟨fun nDp w => ?_, fun w r₁ h₁ r₂ h₂ hm₁ hm₂ => ?_⟩
  · change (∃ i, decodeCommand nDp w = .instr i) ↔ ∃ row ∈ commandTable, row.matches w = true ∧
      (row.format = .l ∨ row.format = .lb → (fieldLane w).toNat < nDp)
    rw [decodeCommand_isInstr_iff]
    constructor
    · rintro ⟨hmbz, f, i, hrow, hlane, himm, hlegal⟩
      obtain ⟨row, hmem, hop, rfl⟩ := (commandOf_isSome_iff _ _ _ f).mp ⟨i, hrow⟩
      refine ⟨row, hmem, ((regular_of_mem_commandTable row hmem).matches_iff w).mpr ⟨hop.symm, hmbz, hlane, himm⟩, ?_⟩
      rw [← Format.noLane_eq_false_iff]
      exact fun hn => of_decide_eq_true (hlegal hn)
    · rintro ⟨row, hmem, hmatch, hlegal⟩
      obtain ⟨hop, hmbz, hlane, himm⟩ := ((regular_of_mem_commandTable row hmem).matches_iff w).mp hmatch
      obtain ⟨i, hrow⟩ := (commandOf_isSome_iff (fieldOp w) (fieldLane w) (fieldImm w) row.format).mpr
        ⟨row, hmem, hop.symm, rfl⟩
      rw [← Format.noLane_eq_false_iff] at hlegal
      exact ⟨hmbz, row.format, i, hrow, hlane, himm, fun hn => decide_eq_true (hlegal hn)⟩
  · have hop₁ := (((regular_of_mem_commandTable r₁ h₁).matches_iff w).mp hm₁).1
    have hop₂ := (((regular_of_mem_commandTable r₂ h₂).matches_iff w).mp hm₂).1
    have hdistinct : ∀ r₁ ∈ commandTable, ∀ r₂ ∈ commandTable,
      fieldOp r₁.matchBits = fieldOp r₂.matchBits → r₁ = r₂ := by decide
    exact hdistinct r₁ h₁ r₂ h₂ (hop₁.symm.trans hop₂)

/-- Settles O4: each of the six codes is the instruction's own by its bits, which the decoder reads off. -/
theorem sampleCodesDecode : Obligations.SampleCodesDecode := by
  unfold Obligations.SampleCodesDecode
  decide

end Sys2Proof
end

section
/-! # The lane commands (spec/42_block_transform.md section 2, spec/43_control_commands.md section 1)

A lane command makes the checks of R290 in order: the lane, `FATAL`, the hold, then its own. For each command one lemma
per outcome says what `exec` answers where the earlier checks pass. -/

namespace Sys2Proof.Machine

section
variable {s : State} {d : LaneNo} {l : Lane}

/-! ## Where the lane exists and FATAL = 0 -/

theorem exec_dinclr_of_lane (hl : s.lane? d = some l) (hf : s.fatal = false) :
    exec (.dinclr d) s = .next ((s.setLane d l.clearIn).answer (responseWord .ok 0#24)) := by
  simp only [exec, execDinclr]
  rw [onLane_of_some _ hl, unlessFatal_of_false _ hf]
  rfl

theorem exec_dinpush_of_lane (b : Byte) (hl : s.lane? d = some l) (hf : s.fatal = false) :
    exec (.dinpush d b) s = .next ((s.setLane d (l.push b)).answer (responseWord .ok 0#24)) := by
  simp only [exec, execDinpush]
  rw [onLane_of_some _ hl, unlessFatal_of_false _ hf]
  rfl

theorem released_encrypt (hl : s.lane? d = some l) : released (.encrypt d) s = (!s.kbusy && !l.dbusy) := by
  rw [released, laneIdle_iff hl]

theorem released_doutpop (hl : s.lane? d = some l) : released (.doutpop d) s = !l.dbusy := by
  rw [released, laneIdle_iff hl]

theorem exec_encrypt_of_lane (hl : s.lane? d = some l) (hf : s.fatal = false) :
    exec (.encrypt d) s = holdUntil (!s.kbusy && !l.dbusy) s
      (if !s.kvalid then .next (s.answer (responseWord .eNosched 0#24))
      else if l.dincnt ≠ 16#5 then .next (s.answer (responseWord .eBlklen (l.dincnt.zeroExtend 24)))
      else .next ((s.setLane d l.start).answer (responseWord .ok 0#24))) := by
  simp only [exec, execEncrypt]
  rw [onLane_of_some _ hl, unlessFatal_of_false _ hf, released_encrypt hl]
  rfl

/-- ENCRYPT past its checks and its hold. -/
theorem exec_encrypt_of_ready (hl : s.lane? d = some l) (hf : s.fatal = false) (hk : s.kbusy = false)
    (hb : l.dbusy = false) (hv : s.kvalid = true) (hc : l.dincnt = 16#5) :
    exec (.encrypt d) s = .next ((s.setLane d l.start).answer (responseWord .ok 0#24)) := by
  rw [exec_encrypt_of_lane hl hf, hk, hb, hv, hc]
  rfl

/-- ENCRYPT with another count of block bytes. -/
theorem exec_encrypt_of_wrong_length (hl : s.lane? d = some l) (hf : s.fatal = false) (hk : s.kbusy = false)
    (hb : l.dbusy = false) (hv : s.kvalid = true) (hc : l.dincnt ≠ 16#5) :
    exec (.encrypt d) s = .next (s.answer (responseWord .eBlklen (l.dincnt.zeroExtend 24))) := by
  rw [exec_encrypt_of_lane hl hf, hk, hb, hv, if_pos hc]
  rfl

theorem exec_doutpop_of_lane (hl : s.lane? d = some l) (hf : s.fatal = false) :
    exec (.doutpop d) s = holdUntil (!l.dbusy) s
      (if !l.doutvalid then .next (s.answer (responseWord .eNodata 0#24))
      else match l.dout[l.doutrd.toNat]? with
        | some v => .next ((s.setLane d l.pop).answer (responseWord .ok (v.zeroExtend 24)))
        | none => .fault .noSuchByte) := by
  simp only [exec, execDoutpop]
  rw [onLane_of_some _ hl, unlessFatal_of_false _ hf, released_doutpop hl]
  rfl

/-- DOUTPOP at a read position that names a byte. -/
theorem exec_doutpop_of_ready {v : Byte} (hl : s.lane? d = some l) (hf : s.fatal = false) (hb : l.dbusy = false)
    (hv : l.doutvalid = true) (hd : l.dout[l.doutrd.toNat]? = some v) :
    exec (.doutpop d) s = .next ((s.setLane d l.pop).answer (responseWord .ok (v.zeroExtend 24))) := by
  rw [exec_doutpop_of_lane hl hf, hb, hv, hd]
  rfl

/-- DOUTPOP at a read position of 16 or more (U12). -/
theorem exec_doutpop_of_past_end (hl : s.lane? d = some l) (hf : s.fatal = false) (hb : l.dbusy = false)
    (hv : l.doutvalid = true) (hd : 16 ≤ l.doutrd.toNat) : exec (.doutpop d) s = .fault .noSuchByte := by
  rw [exec_doutpop_of_lane hl hf, hb, hv, Vector.getElem?_eq_none hd]
  rfl

end

/-- A block byte as a payload below code 0 (R11, R103). -/
theorem responseWord_ok_byte (v : Byte) : responseWord .ok (v.zeroExtend 24) = 0x000000#24 ++ v := by
  have hpayload : v.zeroExtend 24 = 0#16 ++ v := BitVec.setWidth_eq_append (by decide)
  rw [responseWord, hpayload, BitVec.append_assoc', BitVec.cast_eq]
  rfl

/-- A word of format L: the lane above sixteen zeros (R102). -/
theorem commandWord_zero_imm (op : BitVec 8) (d : LaneNo) : commandWord op d 0#8 = op ++ d ++ 0x0000#16 := by
  rw [commandWord, BitVec.append_assoc, BitVec.cast_eq]
  rfl

/-! ## The obligations -/

/-- Settles O24: DINCLR's two failures, and past them `Lane.clearIn`. -/
theorem dinclrEmptiesTheInputBuffer : Obligations.DinclrEmptiesTheInputBuffer := by
  refine ⟨fun _ => ?_, fun s d hl => onLane_of_none _ hl, fun s d l hl hf => ?_, fun s d l hl hf => ?_⟩
  · exact congrArg Code.command (commandWord_zero_imm _ _)
  · exact (onLane_of_some _ hl).trans (unlessFatal_of_true _ hf)
  · rw [exec_dinclr_of_lane hl hf]; rfl

/-- Settles O25: DINPUSH's two failures, and past them `Lane.push`, whose buffer `pushByte_getElem` reads byte by
byte. -/
theorem dinpushAppendsABlockByte : Obligations.DinpushAppendsABlockByte := by
  refine ⟨fun _ _ => rfl, fun s d b hl => onLane_of_none _ hl, fun s d b l hl hf => ?_, fun s d b l hl hf => ?_⟩
  · exact (onLane_of_some _ hl).trans (unlessFatal_of_true _ hf)
  · refine ⟨pushByte l.din l.dincnt b, ?_, fun j => pushByte_getElem l.din l.dincnt b j j.isLt⟩
    rw [exec_dinpush_of_lane b hl hf]; rfl

/-- Settles O26: the checks of ENCRYPT in the order of R290, and past them `Lane.start`. -/
theorem encryptStartsTheLane : Obligations.EncryptStartsTheLane := by
  refine ⟨fun _ => ?_, fun s d hl => onLane_of_none _ hl, fun s d l hl hf => ?fatal,
    fun s d l hl hf hbusy => ?held, fun s d l hl hf hk hb hv => ?nosched, fun s d l hl hf hk hb hv hc => ?blklen,
    fun s d l hl hf hk hb hv hc => ?starts⟩
  · exact congrArg Code.command (commandWord_zero_imm _ _)
  case fatal => exact (onLane_of_some _ hl).trans (unlessFatal_of_true _ hf)
  case held =>
    have hheld : (!s.kbusy && !l.dbusy) = false := by rcases hbusy with h | h <;> simp [h]
    rw [exec_encrypt_of_lane hl hf, hheld, holdUntil_false]
  case nosched => rw [exec_encrypt_of_lane hl hf, hk, hb, hv, State.answer, hv, hk]; rfl
  case blklen =>
    rw [exec_encrypt_of_wrong_length hl hf hk hb hv hc, responseWord_zeroExtend_count]; rfl
  case starts => rw [exec_encrypt_of_ready hl hf hk hb hv hc]; rfl

/-- Settles O27: the checks of DOUTPOP in the order of R290, and past them `Lane.pop` with the byte at the read
position. -/
theorem doutpopReturnsTheNextByte : Obligations.DoutpopReturnsTheNextByte := by
  refine ⟨fun _ => ?_, fun s d hl => onLane_of_none _ hl, fun s d l hl hf => ?fatal,
    fun s d l hl hf hb => ?held, fun s d l hl hf hb hv => ?nodata, fun s d l j hl hf hb hv hj => ?pops⟩
  · exact congrArg Code.command (commandWord_zero_imm _ _)
  case fatal => exact (onLane_of_some _ hl).trans (unlessFatal_of_true _ hf)
  case held => rw [exec_doutpop_of_lane hl hf, hb, Bool.not_true, holdUntil_false]
  case nodata => rw [exec_doutpop_of_lane hl hf, hb, hv]; rfl
  case pops =>
    have hbyte : l.dout[l.doutrd.toNat]? = some l.dout[j] := by
      rw [hj]; exact Vector.getElem?_eq_getElem j.isLt
    have hlast : j.val = 15 ↔ l.doutrd = 15#5 := by
      rw [← hj]
      exact ⟨fun h => BitVec.eq_of_toNat_eq h, fun h => h ▸ rfl⟩
    rw [exec_doutpop_of_ready hl hf hb hv hbyte, responseWord_ok_byte]
    simp only [hlast]
    rfl

/-! ## The lane status word -/

/-- The table of R47, bit by bit: DOUTRD from bit 16 up, DINCNT from bit 8 up, the three flags in bits 2 to 0. -/
theorem getLsbD_laneStatus (s : State) (l : Lane) (i : Nat) : (laneStatus s l).getLsbD i =
    (decide (16 ≤ i) && l.doutrd.getLsbD (i - 16) || decide (8 ≤ i) && l.dincnt.getLsbD (i - 8) ||
      decide (i = 2) && s.fatal || decide (i = 1) && l.dbusy || decide (i = 0) && l.doutvalid) := by
  simp only [laneStatus, BitVec.getLsbD_or, BitVec.getLsbD_shiftLeft, BitVec.getLsbD_setWidth, getLsbD_flagBit]
  grind

/-- Above the flags there are only the bits of the two counts. -/
theorem getLsbD_laneStatus_of_ge (s : State) (l : Lane) {i : Nat} (h : 3 ≤ i) :
    (laneStatus s l).getLsbD i =
      (decide (16 ≤ i) && l.doutrd.getLsbD (i - 16) || decide (8 ≤ i) && l.dincnt.getLsbD (i - 8)) := by
  have hfatal : i ≠ 2 := by omega
  have hbusy : i ≠ 1 := by omega
  have hvalid : i ≠ 0 := by omega
  simp [getLsbD_laneStatus, hfatal, hbusy, hvalid]

theorem laneStatus_extractLsb'_dincnt (s : State) (l : Lane) : (laneStatus s l).extractLsb' 8 5 = l.dincnt := by
  apply BitVec.eq_of_getLsbD_eq
  intro j hj
  have hbelow : ¬ 16 ≤ 8 + j := by omega
  simp [getLsbD_laneStatus_of_ge s l (show 3 ≤ 8 + j by omega), hj, hbelow]

theorem laneStatus_extractLsb'_doutrd (s : State) (l : Lane) : (laneStatus s l).extractLsb' 16 5 = l.doutrd := by
  apply BitVec.eq_of_getLsbD_eq
  intro j hj
  have habove : l.dincnt.getLsbD (16 + j - 8) = false := BitVec.getLsbD_of_ge _ _ (by omega)
  simp [getLsbD_laneStatus_of_ge s l (show 3 ≤ 16 + j by omega), hj, habove]

/-- The zero fields of R47: a part above the flags that meets neither bits 12:8 nor bits 20:16. -/
theorem laneStatus_extractLsb'_eq_zero (s : State) (l : Lane) {i n : Nat} (hflags : 3 ≤ i)
    (hcounts : i + n ≤ 8 ∨ 13 ≤ i ∧ i + n ≤ 16 ∨ 21 ≤ i) : (laneStatus s l).extractLsb' i n = 0#n := by
  apply BitVec.eq_of_getLsbD_eq
  intro j hj
  have hrd : (decide (16 ≤ i + j) && l.doutrd.getLsbD (i + j - 16)) = false := by
    by_cases h16 : 16 ≤ i + j
    · rw [BitVec.getLsbD_of_ge _ _ (by omega), Bool.and_false]
    · rw [decide_eq_false h16, Bool.false_and]
  have hcnt : (decide (8 ≤ i + j) && l.dincnt.getLsbD (i + j - 8)) = false := by
    by_cases h8 : 8 ≤ i + j
    · rw [BitVec.getLsbD_of_ge _ _ (by omega), Bool.and_false]
    · rw [decide_eq_false h8, Bool.false_and]
  rw [BitVec.getLsbD_extractLsb', getLsbD_laneStatus_of_ge s l (by omega), hrd, hcnt, BitVec.getLsbD_zero,
    Bool.or_false, Bool.and_false]

theorem exec_dstat_of_lane {s : State} {d : LaneNo} {l : Lane} (hl : s.lane? d = some l) :
    exec (.dstat d) s = .next (s.answer (responseWord .ok (laneStatus s l))) := onLane_of_some _ hl

/-- Settles O15: DSTAT answers code 0 over the lane status word, whose fields are those of R47. -/
theorem dstatAnswersLaneStatus : Obligations.DstatAnswersLaneStatus := by
  refine ⟨fun _ => ?_, fun s d hl => onLane_of_none _ hl, fun s d l hl =>
    ⟨responseWord .ok (laneStatus s l), exec_dstat_of_lane hl, responseWord_extractLsb'_code _ _,
      ?doutvalid, ?dbusy, ?fatal, ?zero7to3, ?dincnt, ?zero15to13, ?doutrd, ?zero23to21⟩⟩
  · exact congrArg Code.command (commandWord_zero_imm _ _)
  case doutvalid => rw [getLsbD_responseWord _ _ (by decide), getLsbD_laneStatus]; simp
  case dbusy => rw [getLsbD_responseWord _ _ (by decide), getLsbD_laneStatus]; simp
  case fatal => rw [getLsbD_responseWord _ _ (by decide), getLsbD_laneStatus]; simp
  case zero7to3 =>
    rw [responseWord_extractLsb'_payload _ _ (by decide), laneStatus_extractLsb'_eq_zero] <;> decide
  case dincnt => rw [responseWord_extractLsb'_payload _ _ (by decide), laneStatus_extractLsb'_dincnt]
  case zero15to13 =>
    rw [responseWord_extractLsb'_payload _ _ (by decide), laneStatus_extractLsb'_eq_zero] <;> decide
  case doutrd => rw [responseWord_extractLsb'_payload _ _ (by decide), laneStatus_extractLsb'_doutrd]
  case zero23to21 =>
    rw [responseWord_extractLsb'_payload _ _ (by decide), laneStatus_extractLsb'_eq_zero] <;> decide

end Sys2Proof.Machine
end

section
/-! # What one turn of a unit does (spec/30_encoding.md R120)

A unit's turn always answers a next state, and as a function: `State.kseTurn` of the key side, and `Lane.turn` of the
one lane, which reads nothing but the ROMs, the schedule and the lane itself. Both are tied to the model by
`agentStep_kse` and `agentStep_lane`. -/

namespace Sys2Proof.Machine

/-! ## The key-schedule engine -/

/-- What the micro-operation at the engine's sequencer value does, phase by phase (R173 to R177). -/
def State.kseMicro (s : State) : State :=
  if s.kpc.kph = 0#3 then s.setTemp (wordAt s.w (s.kpc.kidx.toNat - 1)) (nextKpc s.kpc.kidx 0#3)
  else if s.kpc.kph = 1#3 then s.setTemp (rotWord s.temp) (nextKpc s.kpc.kidx 1#3)
  else if s.kpc.kph = 2#3 then s.setTemp (subWord s.roms s.temp) (nextKpc s.kpc.kidx 2#3)
  else if s.kpc.kph = 3#3 then
    s.setTemp (s.temp ^^^ s.roms.rconAt (s.kpc.kidx.toNat / 4)) (nextKpc s.kpc.kidx 3#3)
  else if s.kpc.kidx.toNat < 43 then
    s.storeWord s.kpc.kidx.toNat (wordAt s.w (s.kpc.kidx.toNat - 4) ^^^ s.temp) (nextKpc s.kpc.kidx 4#3)
  else s.endExpansion s.kpc.kidx.toNat (wordAt s.w (s.kpc.kidx.toNat - 4) ^^^ s.temp)

/-- The engine's turn: nothing while it is idle or at a value R31 cannot reach. -/
def State.kseTurn (s : State) : State := if s.kbusy && s.kpc.reachable then s.kseMicro else s

theorem kpc_reachable_iff (r : BitVec 6) (ph : BitVec 3) : (⟨r, ph⟩ : Kpc).reachable = true ↔
    (ph = 0#3 ∧ kidxLegal r = true) ∨ (ph = 1#3 ∧ kidxRoundLegal r = true) ∨ (ph = 2#3 ∧ kidxRoundLegal r = true) ∨
      (ph = 3#3 ∧ kidxRoundLegal r = true) ∨ (ph = 4#3 ∧ kidxLegal r = true) := by
  simp [Kpc.reachable, Option.isSome_iff_exists, decodeKpc_eq_instr, exists_or]

theorem kseNext_isSome_iff (s : State) :
    (kseNext s).isSome = true ↔ s.kbusy = true ∧ s.kpc.reachable = true := by
  simp [Kpc.reachable, Option.isSome_iff_exists, kseNext_eq_some]

/-- What the engine selects, it runs (R120). -/
theorem exec_of_kseNext {s : State} {i : Instr} (h : kseNext s = some i) : exec i s = .next s.kseMicro := by
  obtain ⟨-, hsel⟩ := kseNext_at h
  rcases hsel with ⟨r, hk, -, rfl⟩ | ⟨r, hk, -, rfl⟩ | ⟨r, hk, -, rfl⟩ | ⟨r, hk, -, rfl⟩ | ⟨r, hk, -, rfl⟩
  · exact exec_kld_next.mpr ⟨h, by rw [State.kseMicro, hk]; rfl⟩
  · exact exec_krot_next.mpr ⟨h, by rw [State.kseMicro, hk]; rfl⟩
  · exact exec_ksub_next.mpr ⟨h, by rw [State.kseMicro, hk]; rfl⟩
  · exact exec_krc_next.mpr ⟨h, by rw [State.kseMicro, hk]; rfl⟩
  · exact exec_kst_next.mpr ⟨h, by rw [State.kseMicro, hk]; rfl⟩

theorem kseTurn_of_kseNext {s : State} {i : Instr} (h : kseNext s = some i) : s.kseTurn = s.kseMicro := by
  obtain ⟨hb, hr⟩ := (kseNext_isSome_iff s).mp (Option.isSome_of_mem h)
  rw [State.kseTurn, hb, hr]
  rfl

theorem kseTurn_of_not_enabled {s : State} (h : ¬ (s.kbusy = true ∧ s.kpc.reachable = true)) : s.kseTurn = s :=
  if_neg (by simpa using h)

theorem kseTurn_of_idle {s : State} (h : s.kbusy = false) : s.kseTurn = s :=
  kseTurn_of_not_enabled fun hb => by simp [h] at hb

theorem agentStep_kse (s : State) : agentStep .kse s = .next s.kseTurn := by
  cases hn : kseNext s with
  | none =>
    rw [agentStep_kse_of_none hn, kseTurn_of_not_enabled]
    rw [← kseNext_isSome_iff, hn]
    exact Bool.false_ne_true
  | some i => rw [agentStep_kse_of_some hn, exec_of_kseNext hn, kseTurn_of_kseNext hn]

theorem kseMicro_frame (s : State) : s.kseMicro = { s with
    w := s.kseMicro.w, temp := s.kseMicro.temp, kpc := s.kseMicro.kpc, kbusy := s.kseMicro.kbusy,
    kvalid := s.kseMicro.kvalid } := by
  unfold State.kseMicro
  split_ifs <;> rfl

/-- The frame of the engine's turn: five items of the key side. -/
theorem kseTurn_frame (s : State) : s.kseTurn = { s with
    w := s.kseTurn.w, temp := s.kseTurn.temp, kpc := s.kseTurn.kpc, kbusy := s.kseTurn.kbusy,
    kvalid := s.kseTurn.kvalid } := by
  unfold State.kseTurn
  split
  · exact kseMicro_frame s
  · rfl

section
variable (s : State)
@[simp] theorem State.kseTurn_roms : s.kseTurn.roms = s.roms := by rw [kseTurn_frame]
@[simp] theorem State.kseTurn_lanes : s.kseTurn.lanes = s.lanes := by rw [kseTurn_frame]
@[simp] theorem State.kseTurn_keybuf : s.kseTurn.keybuf = s.keybuf := by rw [kseTurn_frame]
@[simp] theorem State.kseTurn_keycnt : s.kseTurn.keycnt = s.keycnt := by rw [kseTurn_frame]
@[simp] theorem State.kseTurn_fatal : s.kseTurn.fatal = s.fatal := by rw [kseTurn_frame]
@[simp] theorem State.kseTurn_hostActions : s.kseTurn.hostActions = s.hostActions := by rw [kseTurn_frame]
@[simp] theorem State.kseTurn_responses : s.kseTurn.responses = s.responses := by rw [kseTurn_frame]
@[simp] theorem State.kseTurn_nDp : s.kseTurn.nDp = s.nDp := by rw [kseTurn_frame]; rfl
end

/-! ## A lane -/

/-- What the micro-operation at the lane's sequencer value does, phase by phase (R220 to R223). -/
def Lane.micro (r : Roms) (w : Schedule) (l : Lane) : Lane :=
  if l.dpc.ph = 0#2 then l.setS (subBytes r l.s) (nextDpc l.dpc.rnd 0#2)
  else if l.dpc.ph = 1#2 then l.setS (shiftRows l.s) (nextDpc l.dpc.rnd 1#2)
  else if l.dpc.ph = 2#2 then l.setS (mixColumns l.s) (nextDpc l.dpc.rnd 2#2)
  else if l.dpc.rnd.toNat < 10 then l.setS (addRoundKey l.s w l.dpc.rnd.toNat) (nextDpc l.dpc.rnd 3#2)
  else l.finish (addRoundKey l.s w l.dpc.rnd.toNat)

/-- The lane's turn: nothing while it is idle or at a value R41 cannot reach. -/
def Lane.turn (r : Roms) (w : Schedule) (l : Lane) : Lane := if l.dbusy && l.dpc.reachable then l.micro r w else l

/-- Lane `d`, where it exists, becomes `f` of itself; no other lane changes (R303). -/
def State.updateLane (s : State) (d : LaneNo) (f : Lane → Lane) : State :=
  { s with lanes := s.lanes.modify d.toNat f }

theorem updateLane_of_some {s : State} {d : LaneNo} {l : Lane} (f : Lane → Lane) (h : s.lane? d = some l) :
    s.updateLane d f = s.setLane d (f l) := by
  rw [lane?_eq_some_iff] at h
  rw [State.updateLane, State.setLane, List.modify_eq_set_getElem?, h]
  rfl

theorem updateLane_of_none {s : State} {d : LaneNo} (f : Lane → Lane) (h : s.lane? d = none) :
    s.updateLane d f = s := by
  rw [State.lane?] at h
  rw [State.updateLane, List.modify_eq_set_getElem?, h]
  rfl

theorem setLane_of_lane? {s : State} {d : LaneNo} {l : Lane} (h : s.lane? d = some l) : s.setLane d l = s := by
  obtain ⟨hd, rfl⟩ := List.getElem?_eq_some_iff.mp h
  rw [State.setLane, List.set_getElem_self hd]

theorem dpc_reachable_iff (n : BitVec 4) (ph : BitVec 2) : (⟨n, ph⟩ : Dpc).reachable = true ↔
    (ph = 0#2 ∧ rndLegal n = true) ∨ (ph = 1#2 ∧ rndLegal n = true) ∨ (ph = 2#2 ∧ rndMixLegal n = true) ∨
      (ph = 3#2 ∧ rndKeyLegal n = true) := by
  simp [Dpc.reachable, Option.isSome_iff_exists, decodeDpc_eq_instr, exists_or]

theorem laneNext_isSome_iff (s : State) (d : LaneNo) : (laneNext s d).isSome = true ↔
    ∃ l, s.lane? d = some l ∧ l.dbusy = true ∧ l.dpc.reachable = true := by
  simp only [Option.isSome_iff_exists, laneNext_eq_some]
  constructor
  · rintro ⟨i, l, hl, hb, h⟩
    refine ⟨l, hl, hb, (dpc_reachable_iff l.dpc.rnd l.dpc.ph).mpr ?_⟩
    rcases (decodeDpc_eq_instr _ _ _ i).mp h with ⟨hp, hr, -⟩ | ⟨hp, hr, -⟩ | ⟨hp, hr, -⟩ | ⟨hp, hr, -⟩ <;>
      simp [hp, hr]
  · rintro ⟨l, hl, hb, h⟩
    rcases (dpc_reachable_iff l.dpc.rnd l.dpc.ph).mp h with h | h | h | h
    · exact ⟨_, l, hl, hb, (decodeDpc_eq_instr d _ _ _).mpr (.inl ⟨h.1, h.2, rfl⟩)⟩
    · exact ⟨_, l, hl, hb, (decodeDpc_eq_instr d _ _ _).mpr (.inr (.inl ⟨h.1, h.2, rfl⟩))⟩
    · exact ⟨_, l, hl, hb, (decodeDpc_eq_instr d _ _ _).mpr (.inr (.inr (.inl ⟨h.1, h.2, rfl⟩)))⟩
    · exact ⟨_, l, hl, hb, (decodeDpc_eq_instr d _ _ _).mpr (.inr (.inr (.inr ⟨h.1, h.2, rfl⟩)))⟩

/-- What a lane selects, it runs (R120). -/
theorem exec_of_laneNext {s : State} {d : LaneNo} {i : Instr} (h : laneNext s d = some i) :
    exec i s = .next (s.updateLane d (Lane.micro s.roms s.w)) := by
  obtain ⟨l, n, hl, -, hsel⟩ := laneNext_at h
  rw [updateLane_of_some _ hl]
  rcases hsel with ⟨hk, -, rfl⟩ | ⟨hk, -, rfl⟩ | ⟨hk, -, rfl⟩ | ⟨hk, -, rfl⟩
  · exact exec_sb_next.mpr ⟨h, l, hl, by rw [Lane.micro, hk]; rfl⟩
  · exact exec_sr_next.mpr ⟨h, l, hl, by rw [Lane.micro, hk]; rfl⟩
  · exact exec_mc_next.mpr ⟨h, l, hl, by rw [Lane.micro, hk]; rfl⟩
  · exact exec_ark_next.mpr ⟨h, l, hl, by rw [Lane.micro, hk]; rfl⟩

theorem Lane.turn_of_enabled {l : Lane} (r : Roms) (w : Schedule) (hb : l.dbusy = true)
    (hr : l.dpc.reachable = true) : l.turn r w = l.micro r w := by
  rw [Lane.turn, hb, hr]
  rfl

theorem Lane.turn_of_not_enabled {l : Lane} (r : Roms) (w : Schedule)
    (h : ¬ (l.dbusy = true ∧ l.dpc.reachable = true)) : l.turn r w = l := if_neg (by simpa using h)

theorem Lane.turn_of_idle {l : Lane} (r : Roms) (w : Schedule) (h : l.dbusy = false) : l.turn r w = l :=
  Lane.turn_of_not_enabled r w fun hb => by simp [h] at hb

theorem agentStep_lane (s : State) (d : LaneNo) :
    agentStep (.lane d) s = .next (s.updateLane d (Lane.turn s.roms s.w)) := by
  cases hl : s.lane? d with
  | none =>
    have hn : laneNext s d = none := by rw [laneNext, hl]
    rw [agentStep_lane_of_none hn, updateLane_of_none _ hl]
  | some l =>
    rw [updateLane_of_some _ hl]
    cases hn : laneNext s d with
    | none =>
      have hnot : ¬ (l.dbusy = true ∧ l.dpc.reachable = true) := fun h => by
        have hsome := (laneNext_isSome_iff s d).mpr ⟨l, hl, h⟩
        rw [hn] at hsome
        exact Bool.false_ne_true hsome
      rw [agentStep_lane_of_none hn, Lane.turn_of_not_enabled _ _ hnot, setLane_of_lane? hl]
    | some i =>
      obtain ⟨m, hm, hb, hr⟩ := (laneNext_isSome_iff s d).mp (Option.isSome_of_mem hn)
      obtain rfl : m = l := Option.some_inj.mp (hm.symm.trans hl)
      rw [agentStep_lane_of_some hn, exec_of_laneNext hn, updateLane_of_some _ hl, Lane.turn_of_enabled _ _ hb hr]

section
variable (s : State) (d : LaneNo) (f : Lane → Lane)
@[simp] theorem State.updateLane_roms : (s.updateLane d f).roms = s.roms := rfl
@[simp] theorem State.updateLane_lanes : (s.updateLane d f).lanes = s.lanes.modify d.toNat f := rfl
@[simp] theorem State.updateLane_keybuf : (s.updateLane d f).keybuf = s.keybuf := rfl
@[simp] theorem State.updateLane_keycnt : (s.updateLane d f).keycnt = s.keycnt := rfl
@[simp] theorem State.updateLane_w : (s.updateLane d f).w = s.w := rfl
@[simp] theorem State.updateLane_kvalid : (s.updateLane d f).kvalid = s.kvalid := rfl
@[simp] theorem State.updateLane_kbusy : (s.updateLane d f).kbusy = s.kbusy := rfl
@[simp] theorem State.updateLane_fatal : (s.updateLane d f).fatal = s.fatal := rfl
@[simp] theorem State.updateLane_kpc : (s.updateLane d f).kpc = s.kpc := rfl
@[simp] theorem State.updateLane_hostActions : (s.updateLane d f).hostActions = s.hostActions := rfl
@[simp] theorem State.updateLane_responses : (s.updateLane d f).responses = s.responses := rfl
@[simp] theorem State.updateLane_nDp : (s.updateLane d f).nDp = s.nDp := by simp [State.nDp]
end

theorem lane?_updateLane_self (s : State) (d : LaneNo) (f : Lane → Lane) :
    (s.updateLane d f).lane? d = (s.lane? d).map f := by
  simp [State.lane?]

theorem lane?_updateLane_ne (s : State) {d e : LaneNo} (f : Lane → Lane) (h : d ≠ e) :
    (s.updateLane d f).lane? e = s.lane? e := by
  have hne : d.toNat ≠ e.toNat := fun hh => h (BitVec.eq_of_toNat_eq hh)
  simp [State.lane?, hne]

/-- A micro-operation leaves the input buffer alone. -/
theorem Lane.micro_frame (r : Roms) (w : Schedule) (l : Lane) :
    (l.micro r w).din = l.din ∧ (l.micro r w).dincnt = l.dincnt := by
  unfold Lane.micro
  split_ifs <;> simp

section
variable (r : Roms) (w : Schedule) (l : Lane)
@[simp] theorem Lane.turn_din : (l.turn r w).din = l.din := by
  unfold Lane.turn
  split
  · exact (Lane.micro_frame r w l).1
  · rfl
@[simp] theorem Lane.turn_dincnt : (l.turn r w).dincnt = l.dincnt := by
  unfold Lane.turn
  split
  · exact (Lane.micro_frame r w l).2
  · rfl
end

end Sys2Proof.Machine
end

section
/-! # What an instruction can answer (spec/60_exceptions.md R280, R290, R292)

Said once for all ten commands: a command waits and changes nothing, fails and changes nothing but the responses, or
succeeds with its effect. `Fails` lists the failures and `Succeeds` the effects; what the obligations say over all
commands is read off these two lists. A micro-operation is a turn of its unit, or is not selected. -/

namespace Sys2Proof.Machine

/-- The failures: of which command, under which condition, with which code and info value (R271 to R276, R281). -/
inductive Fails (s : State) : Instr → ResultCode → BitVec 24 → Prop
  | fatal {i : Instr} : isStatus i = false → s.fatal = true → Fails s i .eFatal 0#24
  | illegal {i : Instr} : wellFormed s.nDp i = false → Fails s i .eIllegal 0#24
  | keylen : released .expand s = true → s.keycnt ≠ 16#5 → Fails s .expand .eKeylen (s.keycnt.zeroExtend 24)
  | nosched {d : LaneNo} : released (.encrypt d) s = true → s.kvalid = false → Fails s (.encrypt d) .eNosched 0#24
  | blklen {d : LaneNo} {l : Lane} : released (.encrypt d) s = true → s.lane? d = some l → l.dincnt ≠ 16#5 →
      Fails s (.encrypt d) .eBlklen (l.dincnt.zeroExtend 24)
  | nodata {d : LaneNo} {l : Lane} : released (.doutpop d) s = true → s.lane? d = some l → l.doutvalid = false →
      Fails s (.doutpop d) .eNodata 0#24

/-- The effects: the state a command that succeeds leaves, before its response is recorded, and the payload. -/
inductive Succeeds (s : State) : Instr → State → BitVec 24 → Prop
  | nop : Succeeds s .nop s 0#24
  | kstat : Succeeds s .kstat s (keyStatus s)
  | dstat {d : LaneNo} {l : Lane} : s.lane? d = some l → Succeeds s (.dstat d) s (laneStatus s l)
  | keyclr : Succeeds s .keyclr s.clearKeySide 0#24
  | keypush (b : Byte) : Succeeds s (.keypush b) (s.pushKey b) 0#24
  | expand : s.keycnt = 16#5 → Succeeds s .expand s.beginExpansion 0#24
  | dinclr {d : LaneNo} {l : Lane} : s.lane? d = some l → Succeeds s (.dinclr d) (s.setLane d l.clearIn) 0#24
  | dinpush {d : LaneNo} {l : Lane} (b : Byte) : s.lane? d = some l →
      Succeeds s (.dinpush d b) (s.setLane d (l.push b)) 0#24
  | encrypt {d : LaneNo} {l : Lane} : s.lane? d = some l → s.kvalid = true → l.dincnt = 16#5 →
      Succeeds s (.encrypt d) (s.setLane d l.start) 0#24
  | doutpop {d : LaneNo} {l : Lane} {v : Byte} : s.lane? d = some l → l.doutvalid = true →
      l.dout[l.doutrd.toNat]? = some v → Succeeds s (.doutpop d) (s.setLane d l.pop) (v.zeroExtend 24)

/-- The three outcomes of a command that answers a next state. -/
inductive CommandOutcome (s : State) (i : Instr) : State → Prop
  | held : s.fatal = false → released i s = false → CommandOutcome s i s
  | failed {code : ResultCode} {info : BitVec 24} : Fails s i code info →
      CommandOutcome s i (s.answer (responseWord code info))
  | done {u : State} {v : BitVec 24} : (isStatus i = false → s.fatal = false) → released i s = true →
      Succeeds s i u v → CommandOutcome s i (u.answer (responseWord .ok v))

theorem laneLegal_of_none {s : State} {d : LaneNo} (h : s.lane? d = none) : laneLegal s.nDp d = false := by
  rw [← Bool.not_eq_true, laneLegal_iff]
  simp [h]

theorem exec_command_next {s t : State} {i : Instr} (hc : isCommand i = true) (h : exec i s = .next t) :
    CommandOutcome s i t := by
  cases i with
  | nop => cases h; exact .done nofun rfl .nop
  | kstat => cases h; exact .done nofun rfl .kstat
  | dstat d =>
    rcases exec_dstat_next h with ⟨hl, rfl⟩ | ⟨l, hl, rfl⟩
    · exact .failed (.illegal (laneLegal_of_none hl))
    · exact .done nofun rfl (.dstat hl)
  | keyclr =>
    rcases exec_keyclr_next h with ⟨hf, rfl⟩ | ⟨hf, hr, rfl⟩ | ⟨hf, hr, rfl⟩
    · exact .failed (.fatal rfl hf)
    · exact .held hf hr
    · exact .done (fun _ => hf) hr .keyclr
  | keypush b =>
    rcases exec_keypush_next h with ⟨hf, rfl⟩ | ⟨hf, hr, rfl⟩ | ⟨hf, hr, rfl⟩
    · exact .failed (.fatal rfl hf)
    · exact .held hf hr
    · exact .done (fun _ => hf) hr (.keypush b)
  | expand =>
    rcases exec_expand_next h with ⟨hf, rfl⟩ | ⟨hf, hr, rfl⟩ | ⟨hf, hr, hk, rfl⟩ | ⟨hf, hr, hk, rfl⟩
    · exact .failed (.fatal rfl hf)
    · exact .held hf hr
    · exact .failed (.keylen hr hk)
    · exact .done (fun _ => hf) hr (.expand hk)
  | dinclr d =>
    rcases exec_dinclr_next h with ⟨hl, rfl⟩ | ⟨l, hl, ⟨hf, rfl⟩ | ⟨hf, rfl⟩⟩
    · exact .failed (.illegal (laneLegal_of_none hl))
    · exact .failed (.fatal rfl hf)
    · exact .done (fun _ => hf) rfl (.dinclr hl)
  | dinpush d b =>
    rcases exec_dinpush_next h with ⟨hl, rfl⟩ | ⟨l, hl, ⟨hf, rfl⟩ | ⟨hf, rfl⟩⟩
    · exact .failed (.illegal (laneLegal_of_none hl))
    · exact .failed (.fatal rfl hf)
    · exact .done (fun _ => hf) rfl (.dinpush b hl)
  | encrypt d =>
    rcases exec_encrypt_next h with ⟨hl, rfl⟩ | ⟨l, hl, ⟨hf, rfl⟩ | ⟨hf, hr, rfl⟩ | ⟨hf, hr, hv, rfl⟩ |
      ⟨hf, hr, hv, hc, rfl⟩ | ⟨hf, hr, hv, hc, rfl⟩⟩
    · exact .failed (.illegal (laneLegal_of_none hl))
    · exact .failed (.fatal rfl hf)
    · exact .held hf hr
    · exact .failed (.nosched hr hv)
    · exact .failed (.blklen hr hl hc)
    · exact .done (fun _ => hf) hr (.encrypt hl hv hc)
  | doutpop d =>
    rcases exec_doutpop_next h with ⟨hl, rfl⟩ | ⟨l, hl, ⟨hf, rfl⟩ | ⟨hf, hr, rfl⟩ | ⟨hf, hr, hv, rfl⟩ |
      ⟨v, hf, hr, hv, hd, rfl⟩⟩
    · exact .failed (.illegal (laneLegal_of_none hl))
    · exact .failed (.fatal rfl hf)
    · exact .held hf hr
    · exact .failed (.nodata hr hl hv)
    · exact .done (fun _ => hf) hr (.doutpop hl hv hd)
  | kld _ => cases hc
  | krot _ => cases hc
  | ksub _ => cases hc
  | krc _ => cases hc
  | kst _ => cases hc
  | sb _ _ => cases hc
  | sr _ _ => cases hc
  | mc _ _ => cases hc
  | ark _ _ => cases hc

/-- Of the host's side a success touches only the responses, and those not before it is recorded; the configuration
and FATAL it never touches. -/
theorem Succeeds.frame {s u : State} {i : Instr} {v : BitVec 24} (h : Succeeds s i u v) :
    u.roms = s.roms ∧ u.lanes.length = s.lanes.length ∧ u.fatal = s.fatal ∧ u.hostActions = s.hostActions ∧
      u.responses = s.responses ∧ u.schedule = s.schedule ∧ u.stepCount = s.stepCount := by
  cases h <;> simp

/-! ## Micro-operations -/

/-- An instruction that is no command names the sequencer that selects it. -/
inductive MicroOpOutcome (s : State) (i : Instr) : Result → Prop
  | kse : kseNext s = some i → MicroOpOutcome s i (.next s.kseMicro)
  | lane {d : LaneNo} : laneNext s d = some i → MicroOpOutcome s i (.next (s.updateLane d (Lane.micro s.roms s.w)))
  | unselected : MicroOpOutcome s i (.fault .notSelected)

theorem kseStep_outcome {s : State} {i : Instr} {k : State → State} (h : exec i s = kseStep i s k) :
    MicroOpOutcome s i (exec i s) := by
  by_cases hn : kseNext s = some i
  · rw [exec_of_kseNext hn]; exact .kse hn
  · rw [h, kseStep, if_neg hn]; exact .unselected

theorem laneStep_outcome {s : State} {i : Instr} {d : LaneNo} {k : Lane → Lane} (h : exec i s = laneStep i d s k) :
    MicroOpOutcome s i (exec i s) := by
  by_cases hn : laneNext s d = some i
  · rw [exec_of_laneNext hn]; exact .lane hn
  · rw [h, laneStep, if_neg hn]; exact .unselected

theorem exec_microOp (s : State) {i : Instr} (hc : isCommand i = false) : MicroOpOutcome s i (exec i s) := by
  cases i with
  | kld r => exact kseStep_outcome (by rw [exec, execKld])
  | krot r => exact kseStep_outcome (by rw [exec, execKrot])
  | ksub r => exact kseStep_outcome (by rw [exec, execKsub])
  | krc r => exact kseStep_outcome (by rw [exec, execKrc])
  | kst r => exact kseStep_outcome (by rw [exec, execKst])
  | sb d n => exact laneStep_outcome rfl
  | sr d n => exact laneStep_outcome rfl
  | mc d n => exact laneStep_outcome rfl
  | ark d n => exact laneStep_outcome rfl
  | nop => cases hc
  | kstat => cases hc
  | dstat _ => cases hc
  | keyclr => cases hc
  | keypush _ => cases hc
  | expand => cases hc
  | dinclr _ => cases hc
  | dinpush _ _ => cases hc
  | encrypt _ => cases hc
  | doutpop _ => cases hc

/-- The frame of every instruction: the configuration, FATAL, and of the host's side all but the responses. -/
theorem exec_frame {s t : State} {i : Instr} (h : exec i s = .next t) :
    t.roms = s.roms ∧ t.lanes.length = s.lanes.length ∧ t.fatal = s.fatal ∧ t.hostActions = s.hostActions ∧
      t.schedule = s.schedule ∧ t.stepCount = s.stepCount := by
  cases hc : isCommand i with
  | true =>
    cases exec_command_next hc h with
    | held => exact ⟨rfl, rfl, rfl, rfl, rfl, rfl⟩
    | failed => exact ⟨rfl, rfl, rfl, rfl, rfl, rfl⟩
    | done _ _ hs =>
      obtain ⟨hroms, hlen, hfatal, hacts, -, hturns, hcount⟩ := hs.frame
      exact ⟨hroms, hlen, hfatal, hacts, hturns, hcount⟩
  | false =>
    have hout := exec_microOp s hc
    rw [h] at hout
    cases hout with
    | kse => rw [kseMicro_frame]; exact ⟨rfl, rfl, rfl, rfl, rfl, rfl⟩
    | lane => exact ⟨rfl, List.length_modify .., rfl, rfl, rfl, rfl⟩

/-! ## What stops -/

theorem unlessFatal_answers (s : State) {k : Result} (h : ∃ t, k = .next t) : ∃ t, unlessFatal s k = .next t := by
  unfold unlessFatal
  split
  · exact ⟨_, rfl⟩
  · exact h

theorem holdUntil_answers (c : Bool) (s : State) {k : Result} (h : ∃ t, k = .next t) :
    ∃ t, holdUntil c s k = .next t := by
  unfold holdUntil
  split
  · exact h
  · exact ⟨_, rfl⟩

theorem onLane_answers (d : LaneNo) (s : State) {k : Lane → Result} (h : ∀ l, ∃ t, k l = .next t) :
    ∃ t, onLane d s k = .next t := by
  unfold onLane
  split
  · exact h _
  · exact ⟨_, rfl⟩

/-- A read of DOUT at DOUTRD finds a byte unless DOUTRD is 16 or more. -/
theorem exec_doutpop_answers (s : State) (d : LaneNo)
    (h : ∀ l, s.lane? d = some l → l.doutvalid = true → l.doutrd.toNat < 16) : ∃ t, exec (.doutpop d) s = .next t := by
  simp only [exec, execDoutpop]
  cases hl : s.lane? d with
  | none => exact ⟨_, onLane_of_none _ hl⟩
  | some l =>
    rw [onLane_of_some _ hl]
    refine unlessFatal_answers s (holdUntil_answers _ s ?_)
    cases hv : l.doutvalid with
    | false => exact ⟨_, rfl⟩
    | true => rw [Vector.getElem?_eq_getElem (h l hl hv)]; exact ⟨_, rfl⟩

/-- Only DOUTPOP can stop, and only at a read position past the last byte (U12). -/
theorem exec_command_answers {s : State} {i : Instr} (hc : isCommand i = true)
    (h : ∀ d l, i = .doutpop d → s.lane? d = some l → l.doutvalid = true → l.doutrd.toNat < 16) :
    ∃ t, exec i s = .next t := by
  cases i with
  | nop => exact ⟨_, rfl⟩
  | kstat => exact ⟨_, rfl⟩
  | dstat d => exact onLane_answers d s fun l => ⟨_, rfl⟩
  | keyclr => exact unlessFatal_answers s (holdUntil_answers _ s ⟨_, rfl⟩)
  | keypush b => exact unlessFatal_answers s (holdUntil_answers _ s ⟨_, rfl⟩)
  | expand => exact unlessFatal_answers s (holdUntil_answers _ s (by split_ifs <;> exact ⟨_, rfl⟩))
  | dinclr d => exact onLane_answers d s fun l => unlessFatal_answers s (holdUntil_answers _ s ⟨_, rfl⟩)
  | dinpush d b => exact onLane_answers d s fun l => unlessFatal_answers s (holdUntil_answers _ s ⟨_, rfl⟩)
  | encrypt d =>
    exact onLane_answers d s fun l =>
      unlessFatal_answers s (holdUntil_answers _ s (by split_ifs <;> exact ⟨_, rfl⟩))
  | doutpop d => exact exec_doutpop_answers s d fun l hl hv => h d l rfl hl hv
  | kld _ => cases hc
  | krot _ => cases hc
  | ksub _ => cases hc
  | krc _ => cases hc
  | kst _ => cases hc
  | sb _ _ => cases hc
  | sr _ _ => cases hc
  | mc _ _ => cases hc
  | ark _ _ => cases hc

/-- A command that does not answer a next state is a DOUTPOP past the last byte. -/
theorem exec_command_answers_or_stops (s : State) {i : Instr} (hc : isCommand i = true) :
    (∃ t, exec i s = .next t) ∨ (exec i s = .fault .noSuchByte ∧
      ∃ d l, i = .doutpop d ∧ s.lane? d = some l ∧ l.doutvalid = true ∧ 16 ≤ l.doutrd.toNat) := by
  by_cases hstop : ∃ d l, i = .doutpop d ∧ s.lane? d = some l ∧ l.doutvalid = true ∧ 16 ≤ l.doutrd.toNat
  · obtain ⟨d, l, rfl, hl, hv, hrd⟩ := hstop
    cases hf : s.fatal with
    | true => exact .inl ⟨_, (onLane_of_some _ hl).trans (unlessFatal_of_true _ hf)⟩
    | false =>
      cases hb : l.dbusy with
      | true => rw [exec_doutpop_of_lane hl hf, hb]; exact .inl ⟨_, rfl⟩
      | false => exact .inr ⟨exec_doutpop_of_past_end hl hf hb hv hrd, d, l, rfl, hl, hv, hrd⟩
  · refine .inl (exec_command_answers hc fun d l hi hl hv => ?_)
    by_contra hrd
    exact hstop ⟨d, l, hi, hl, hv, by omega⟩

end Sys2Proof.Machine
end

section
/-! # Frames (spec/10_state.md section 1, spec/41_key_expansion.md, spec/42_block_transform.md)

What each instruction leaves unchanged, read off the outcomes. -/

namespace Sys2Proof.Machine

/-- Settles O33: of the six commands, the three that only report leave the state to its responses; the effect of each
of the others is one update, whose buffer or schedule is read by index. -/
theorem keySideCommandFrame : Obligations.KeySideCommandFrame := by
  intro s t b d
  refine ⟨fun h => ?nop, fun h => ?kstat, fun h => ?dstat, fun h => ?keyclr, fun h => ?keypush, fun h => ?expand⟩
  case nop => cases h; rfl
  case kstat => cases h; rfl
  case dstat =>
    cases exec_command_next rfl h with
    | held => rfl
    | failed => rfl
    | done _ _ hs => cases hs; rfl
  case keyclr =>
    cases exec_command_next rfl h with
    | held => rfl
    | failed => rfl
    | done _ _ hs => cases hs; rfl
  case keypush =>
    cases exec_command_next rfl h with
    | held => exact ⟨rfl, fun _ _ => rfl⟩
    | failed => exact ⟨rfl, fun _ _ => rfl⟩
    | done _ _ hs =>
      cases hs
      refine ⟨rfl, fun j hj => ?_⟩
      have hbyte := pushByte_getElem s.keybuf s.keycnt b j j.isLt
      rwa [if_neg hj] at hbyte
  case expand =>
    cases exec_command_next rfl h with
    | held => exact ⟨rfl, fun _ _ => rfl⟩
    | failed => exact ⟨rfl, fun _ _ => rfl⟩
    | done _ _ hs =>
      cases hs
      refine ⟨by rw [State.beginExpansion]; rfl, fun j hj => ?_⟩
      rw [State.answer_w, State.beginExpansion_w, wordAt_loadKeyWords_of_ge _ _ _ hj]

/-- Settles O34: the first four write through `State.setTemp`, and KST writes the one word W[r]. -/
theorem keyMicroOpFrame : Obligations.KeyMicroOpFrame := by
  intro s t r
  constructor
  · intro i hi h
    simp only [List.mem_cons, List.not_mem_nil, or_false] at hi
    rcases hi with rfl | rfl | rfl | rfl
    · rw [(exec_kld_next.mp h).2]; rfl
    · rw [(exec_krot_next.mp h).2]; rfl
    · rw [(exec_ksub_next.mp h).2]; rfl
    · rw [(exec_krc_next.mp h).2]; rfl
  · intro h
    rw [(exec_kst_next.mp h).2]
    split
    · exact ⟨rfl, fun j hj => wordAt_setWord_ne _ _ _ _ hj.symm⟩
    · exact ⟨rfl, fun j hj => wordAt_setWord_ne _ _ _ _ hj.symm⟩

/-- What each of the four lane commands makes of its lane. -/
inductive LaneCommandEffect (d : LaneNo) (b : Byte) (l : Lane) : Instr → Lane → Prop
  | dinclr : LaneCommandEffect d b l (.dinclr d) l.clearIn
  | dinpush : LaneCommandEffect d b l (.dinpush d b) (l.push b)
  | encrypt : LaneCommandEffect d b l (.encrypt d) l.start
  | doutpop : LaneCommandEffect d b l (.doutpop d) l.pop

/-- A lane command changes nothing but the responses, or writes its own lane. -/
theorem exec_laneCommand_next {s t : State} {d : LaneNo} {b : Byte} {i : Instr}
    (hi : i ∈ [Instr.dinclr d, .dinpush d b, .encrypt d, .doutpop d]) (h : exec i s = .next t) :
    t = { s with responses := t.responses } ∨
    ∃ l l' rsp, s.lane? d = some l ∧ t = (s.setLane d l').answer rsp ∧ LaneCommandEffect d b l i l' := by
  have hc : isCommand i = true := by
    simp only [List.mem_cons, List.not_mem_nil, or_false] at hi
    rcases hi with rfl | rfl | rfl | rfl <;> rfl
  cases exec_command_next hc h with
  | held => exact .inl rfl
  | failed => exact .inl rfl
  | done _ _ hs =>
    refine .inr ?_
    cases hs with
    | dinclr hl => simp at hi; subst hi; exact ⟨_, _, _, hl, rfl, .dinclr⟩
    | dinpush b' hl => simp at hi; obtain ⟨rfl, rfl⟩ := hi; exact ⟨_, _, _, hl, rfl, .dinpush⟩
    | encrypt hl => simp at hi; subst hi; exact ⟨_, _, _, hl, rfl, .encrypt⟩
    | doutpop hl => simp at hi; subst hi; exact ⟨_, _, _, hl, rfl, .doutpop⟩
    | nop | kstat | dstat | keyclr | keypush | expand => simp at hi

theorem Lane.pop_frame (l : Lane) : l.pop = { l with doutvalid := l.pop.doutvalid, doutrd := l.pop.doutrd } := by
  unfold Lane.pop
  split <;> rfl

/-- Settles O35: no change but the responses, or the update of the one lane by the command's own effect. -/
theorem laneCommandFrame : Obligations.LaneCommandFrame := by
  intro s t d b i hi h
  rcases exec_laneCommand_next hi h with ht | ⟨l₀, l₁, rsp, hl₀, rfl, heffect⟩
  · have hlanes : t.lanes = s.lanes := by rw [ht]
    refine ⟨by rw [ht], by rw [hlanes], fun e _ => by rw [hlanes], fun l l' hl hl' => ?_⟩
    rw [hlanes, hl] at hl'
    cases hl'
    exact ⟨rfl, fun _ => rfl, fun _ => ⟨rfl, fun _ _ => rfl⟩, fun _ => rfl, fun _ => rfl⟩
  · refine ⟨rfl, List.length_set .., fun e he => List.getElem?_set_ne he.symm, fun l l' hl hl' => ?_⟩
    obtain rfl : l₀ = l := Option.some_inj.mp (hl₀.symm.trans hl)
    obtain rfl : l₁ = l' := Option.some_inj.mp ((lane?_setLane_self l₁ hl₀).symm.trans hl')
    cases heffect with
    | dinclr => exact ⟨rfl, fun _ => rfl, nofun, nofun, nofun⟩
    | dinpush =>
      refine ⟨rfl, nofun, fun _ => ⟨rfl, fun j hj => ?_⟩, nofun, nofun⟩
      have hbyte := pushByte_getElem l₀.din l₀.dincnt b j j.isLt
      rwa [if_neg hj] at hbyte
    | encrypt => exact ⟨rfl, nofun, nofun, fun _ => rfl, nofun⟩
    | doutpop => exact ⟨l₀.pop_dout, nofun, nofun, nofun, fun _ => l₀.pop_frame⟩

/-- But for the last ARK, a micro-operation writes S and DPC only. -/
theorem Lane.micro_frame_of_ne_last {l : Lane} (r : Roms) (w : Schedule)
    (h : ¬ (l.dpc.ph = 3#2 ∧ ¬ l.dpc.rnd.toNat < 10)) :
    l.micro r w = { l with s := (l.micro r w).s, dpc := (l.micro r w).dpc } := by
  unfold Lane.micro
  split_ifs with h0 h1 h2 h3
  · rfl
  · rfl
  · rfl
  · rfl
  · have hph : ∀ p : BitVec 2, p ≠ 0#2 → p ≠ 1#2 → p ≠ 2#2 → p = 3#2 := by decide
    exact absurd ⟨hph _ h0 h1 h2, h3⟩ h

/-- Settles O36: the update of the one lane by `Lane.micro`. -/
theorem laneMicroOpFrame : Obligations.LaneMicroOpFrame := by
  intro s t d n i hi h
  have hsel : laneNext s d = some i := by
    simp only [List.mem_cons, List.not_mem_nil, or_false] at hi
    rcases hi with rfl | rfl | rfl | rfl
    · exact (exec_sb_next.mp h).1
    · exact (exec_sr_next.mp h).1
    · exact (exec_mc_next.mp h).1
    · exact (exec_ark_next.mp h).1
  obtain ⟨l₀, m, hl₀, -, hphase⟩ := laneNext_at hsel
  rw [exec_of_laneNext hsel, updateLane_of_some _ hl₀] at h
  cases h
  refine ⟨rfl, List.length_set .., fun e he => List.getElem?_set_ne he.symm, fun l l' hl hl' => ?_⟩
  obtain rfl : l₀ = l := Option.some_inj.mp (hl₀.symm.trans hl)
  obtain rfl := Option.some_inj.mp ((lane?_setLane_self _ hl₀).symm.trans hl')
  obtain ⟨hdin, hdincnt⟩ := Lane.micro_frame s.roms s.w l₀
  refine ⟨hdin, hdincnt, fun hne => Lane.micro_frame_of_ne_last _ _ ?_⟩
  rcases hphase with ⟨hk, -, rfl⟩ | ⟨hk, -, rfl⟩ | ⟨hk, -, rfl⟩ | ⟨hk, hlegal, rfl⟩ <;> rw [hk]
  · simp
  · simp
  · simp
  · rintro ⟨-, hlast⟩
    have hle := (rndKeyLegal_iff m).mp hlegal
    exact hne (by rw [show m = 10#4 by bv_omega])

/-! ## Which instructions write an item -/

/-- The column "written by" of R20 for the key side. -/
structure KeySideWriters (i : Instr) (s t : State) : Prop where
  keybuf : t.keybuf ≠ s.keybuf → i = .keyclr ∨ ∃ b, i = .keypush b
  keycnt : t.keycnt ≠ s.keycnt → i = .keyclr ∨ ∃ b, i = .keypush b
  w : t.w ≠ s.w → i = .keyclr ∨ i = .expand ∨ ∃ r, i = .kst r
  kvalidRises : s.kvalid = false → t.kvalid = true → i = .kst 43#6
  kvalidFalls : s.kvalid = true → t.kvalid = false → i = .keyclr ∨ i = .expand ∨ ∃ b, i = .keypush b
  kbusyRises : s.kbusy = false → t.kbusy = true → i = .expand
  kbusyFalls : s.kbusy = true → t.kbusy = false → i = .kst 43#6
  temp : t.temp ≠ s.temp → i = .keyclr ∨ i = .kst 43#6 ∨ ∃ r, i ∈ [Instr.kld r, .krot r, .ksub r, .krc r]
  kpc : t.kpc ≠ s.kpc → i = .expand ∨ ∃ r, i ∈ [Instr.kld r, .krot r, .ksub r, .krc r, .kst r]

/-- The column "written by" of R20 for lane `e`. -/
structure LaneWriters (i : Instr) (e : Nat) (l l' : Lane) : Prop where
  din : l'.din ≠ l.din → ∃ d, d.toNat = e ∧ (i = .dinclr d ∨ ∃ b, i = .dinpush d b)
  dincnt : l'.dincnt ≠ l.dincnt → ∃ d, d.toNat = e ∧ (i = .dinclr d ∨ i = .encrypt d ∨ ∃ b, i = .dinpush d b)
  s : l'.s ≠ l.s → ∃ d, d.toNat = e ∧ (i = .encrypt d ∨ ∃ n, i ∈ [Instr.ark d n, .sb d n, .sr d n, .mc d n])
  dout : l'.dout ≠ l.dout → ∃ d, d.toNat = e ∧ i = .ark d 10#4
  doutvalidRises : l.doutvalid = false → l'.doutvalid = true → ∃ d, d.toNat = e ∧ i = .ark d 10#4
  doutvalidFalls : l.doutvalid = true → l'.doutvalid = false →
    ∃ d, d.toNat = e ∧ (i = .encrypt d ∨ i = .doutpop d)
  doutrd : l'.doutrd ≠ l.doutrd → ∃ d, d.toNat = e ∧ (i = .encrypt d ∨ i = .doutpop d ∨ i = .ark d 10#4)
  dbusyRises : l.dbusy = false → l'.dbusy = true → ∃ d, d.toNat = e ∧ i = .encrypt d
  dbusyFalls : l.dbusy = true → l'.dbusy = false → ∃ d, d.toNat = e ∧ i = .ark d 10#4
  dpc : l'.dpc ≠ l.dpc → ∃ d, d.toNat = e ∧
    (i = .encrypt d ∨ ∃ n, i ∈ [Instr.ark d n, .sb d n, .sr d n, .mc d n])

/-- An instruction that leaves the key side alone needs no entry in the column. -/
theorem KeySideWriters.of_frame (i : Instr) {s t : State}
    (h : t = { s with lanes := t.lanes, responses := t.responses }) : KeySideWriters i s t := by
  rw [h]
  constructor <;> simp +contextual

theorem KeySideWriters.answer {i : Instr} {s t : State} (h : KeySideWriters i s t) (rsp : Word) :
    KeySideWriters i s (t.answer rsp) :=
  ⟨h.keybuf, h.keycnt, h.w, h.kvalidRises, h.kvalidFalls, h.kbusyRises, h.kbusyFalls, h.temp, h.kpc⟩

theorem LaneWriters.refl (i : Instr) (e : Nat) (l : Lane) : LaneWriters i e l l := by
  constructor <;> simp +contextual

/-- Writing lane `d` needs entries for lane `d` only. -/
theorem LaneWriters.of_setLane {s : State} {i : Instr} {d : LaneNo} {l₀ l₁ : Lane} (hl₀ : s.lane? d = some l₀)
    (h : LaneWriters i d.toNat l₀ l₁) {e : Nat} {l l' : Lane} (hl : s.lanes[e]? = some l)
    (hl' : (s.setLane d l₁).lanes[e]? = some l') : LaneWriters i e l l' := by
  by_cases he : d.toNat = e
  · subst he
    obtain rfl : l₀ = l := Option.some_inj.mp (hl₀.symm.trans hl)
    obtain rfl := Option.some_inj.mp ((lane?_setLane_self _ hl₀).symm.trans hl')
    exact h
  · rw [State.setLane_lanes, List.getElem?_set_ne he, hl] at hl'
    cases hl'
    exact .refl i e l

theorem Succeeds.keySideWriters {s u : State} {i : Instr} {v : BitVec 24} (h : Succeeds s i u v) :
    KeySideWriters i s u := by
  cases h with
  | nop => exact .of_frame _ rfl
  | kstat => exact .of_frame _ rfl
  | dstat => exact .of_frame _ rfl
  | keyclr => constructor <;> simp +contextual
  | keypush b => constructor <;> simp +contextual
  | expand => constructor <;> simp +contextual
  | dinclr => exact .of_frame _ rfl
  | dinpush => exact .of_frame _ rfl
  | encrypt => exact .of_frame _ rfl
  | doutpop => exact .of_frame _ rfl

theorem Succeeds.laneWriters {s u : State} {i : Instr} {v : BitVec 24} (h : Succeeds s i u v) {e : Nat} {l l' : Lane}
    (hl : s.lanes[e]? = some l) (hl' : u.lanes[e]? = some l') : LaneWriters i e l l' := by
  have hsame (hlanes : u.lanes = s.lanes) : LaneWriters i e l l' := by
    rw [hlanes, hl] at hl'
    cases hl'
    exact .refl i e l
  cases h with
  | nop => exact hsame rfl
  | kstat => exact hsame rfl
  | dstat => exact hsame rfl
  | keyclr => exact hsame rfl
  | keypush b => exact hsame rfl
  | expand => exact hsame (State.beginExpansion_lanes s)
  | dinclr hd => refine .of_setLane hd ?_ hl hl'; constructor <;> simp +contextual
  | dinpush b hd => refine .of_setLane hd ?_ hl hl'; constructor <;> simp +contextual
  | encrypt hd => refine .of_setLane hd ?_ hl hl'; constructor <;> simp +contextual
  | doutpop hd => refine .of_setLane hd ?_ hl hl'; constructor <;> simp +contextual [Lane.pop_doutvalid]

theorem keySideWriters_of_kseNext {s : State} {i : Instr} (h : kseNext s = some i) :
    KeySideWriters i s s.kseMicro := by
  obtain ⟨hb, hsel⟩ := kseNext_at h
  rcases hsel with ⟨r, hk, -, rfl⟩ | ⟨r, hk, -, rfl⟩ | ⟨r, hk, -, rfl⟩ | ⟨r, hk, -, rfl⟩ | ⟨r, hk, hr, rfl⟩
  · rw [State.kseMicro, hk]; constructor <;> simp +contextual
  · rw [State.kseMicro, hk]; constructor <;> simp +contextual
  · rw [State.kseMicro, hk]; constructor <;> simp +contextual
  · rw [State.kseMicro, hk]; constructor <;> simp +contextual
  · by_cases h43 : r.toNat < 43
    · rw [State.kseMicro, hk]; simp only [h43]; constructor <;> simp +contextual
    · have hr43 := (kidxLegal_iff r).mp hr
      obtain rfl : r = 43#6 := by bv_omega
      rw [State.kseMicro, hk]; constructor <;> simp +contextual [hb]

theorem laneWriters_of_laneNext {s : State} {d : LaneNo} {i : Instr} (h : laneNext s d = some i) {e : Nat}
    {l l' : Lane} (hl : s.lanes[e]? = some l)
    (hl' : (s.updateLane d (Lane.micro s.roms s.w)).lanes[e]? = some l') : LaneWriters i e l l' := by
  obtain ⟨l₀, n, hd, hb, hsel⟩ := laneNext_at h
  rw [updateLane_of_some _ hd] at hl'
  refine .of_setLane hd ?_ hl hl'
  rcases hsel with ⟨hk, -, rfl⟩ | ⟨hk, -, rfl⟩ | ⟨hk, -, rfl⟩ | ⟨hk, hn, rfl⟩
  · rw [Lane.micro, hk]; constructor <;> simp +contextual
  · rw [Lane.micro, hk]; constructor <;> simp +contextual
  · rw [Lane.micro, hk]; constructor <;> simp +contextual
  · by_cases h10 : n.toNat < 10
    · rw [Lane.micro, hk]; simp only [h10]; constructor <;> simp +contextual
    · have hn10 := (rndKeyLegal_iff n).mp hn
      obtain rfl : n = 10#4 := by bv_omega
      rw [Lane.micro, hk]; constructor <;> simp +contextual [hb]

/-- The two columns over all instructions. -/
theorem exec_writers {s t : State} {i : Instr} (h : exec i s = .next t) : KeySideWriters i s t ∧
    ∀ (e : Nat) (l l' : Lane), s.lanes[e]? = some l → t.lanes[e]? = some l' → LaneWriters i e l l' := by
  have hsame : ∀ (e : Nat) (l l' : Lane), s.lanes[e]? = some l → s.lanes[e]? = some l' → LaneWriters i e l l' := by
    intro e l l' hl hl'
    obtain rfl := Option.some_inj.mp (hl.symm.trans hl')
    exact .refl i e l
  cases hc : isCommand i with
  | true =>
    cases exec_command_next hc h with
    | held => exact ⟨.of_frame i rfl, hsame⟩
    | failed => exact ⟨.of_frame i rfl, hsame⟩
    | done _ _ hs => exact ⟨hs.keySideWriters.answer _, fun e l l' => hs.laneWriters⟩
  | false =>
    have hout := exec_microOp s hc
    rw [h] at hout
    cases hout with
    | kse hk => exact ⟨keySideWriters_of_kseNext hk, by rw [kseMicro_frame]; exact hsame⟩
    | lane hd => exact ⟨.of_frame i rfl, fun e l l' => laneWriters_of_laneNext hd⟩

theorem responses_of_microOp {s t : State} {i : Instr} (hc : isCommand i = false) (h : exec i s = .next t) :
    t.responses = s.responses := by
  have hout := exec_microOp s hc
  rw [h] at hout
  cases hout with
  | kse => rw [kseMicro_frame]
  | lane => rfl

/-- Settles O37: the frame of every instruction, and the two columns item by item. -/
theorem onlyTheNamedInstructionsWrite : Obligations.OnlyTheNamedInstructionsWrite := by
  intro s t i h
  obtain ⟨hroms, hlen, hfatal, hacts, hturns, hcount⟩ := exec_frame h
  obtain ⟨hkey, hlane⟩ := exec_writers h
  have hresponses : t.responses ≠ s.responses → isCommand i = true := by
    intro hne
    by_contra hc
    exact hne (responses_of_microOp (Bool.eq_false_iff.mpr hc) h)
  refine ⟨⟨hroms, hlen, hfatal⟩, ⟨hacts, hturns, hcount⟩, hresponses, hkey.keybuf, hkey.keycnt, hkey.w,
    hkey.kvalidRises, hkey.kvalidFalls, hkey.kbusyRises, hkey.kbusyFalls, hkey.temp, hkey.kpc, ?_⟩
  intro e l l' hl hl'
  have hw := hlane e l l' hl hl'
  exact ⟨hw.din, hw.dincnt, hw.s, hw.dout, hw.doutvalidRises, hw.doutvalidFalls, hw.doutrd, hw.dbusyRises,
    hw.dbusyFalls, hw.dpc⟩

end Sys2Proof.Machine
end

section
/-! # Failures and holds (spec/60_exceptions.md R271 to R276, R280, R281, R292) -/

namespace Sys2Proof.Machine

/-- A new response with a code other than 0 comes from a failure, which changes nothing else (R280). -/
theorem fails_of_new_response {s t : State} {i : Instr} {rsp : Word} (hc : isCommand i = true)
    (h : exec i s = .next t) (hrsp : t.responses = s.responses ++ [rsp]) (hcode : rsp.extractLsb' 24 8 ≠ 0x00#8) :
    ∃ code info, Fails s i code info ∧ rsp = responseWord code info ∧ t = s.answer rsp := by
  cases exec_command_next hc h with
  | held => simp at hrsp
  | @failed code info hfails =>
    obtain rfl : responseWord code info = rsp := by simpa using hrsp
    exact ⟨code, info, hfails, rfl, rfl⟩
  | @done u v _ _ hs =>
    obtain ⟨-, -, -, -, hkept, -⟩ := hs.frame
    obtain rfl : responseWord .ok v = rsp := by simpa [hkept] using hrsp
    exact absurd (responseWord_extractLsb'_code .ok v) hcode

/-- Settles O38: what gives such a response is a failure. -/
theorem failedCommandChangesNothing : Obligations.FailedCommandChangesNothing := by
  intro s t i rsp hc h hrsp hcode
  obtain ⟨_, _, _, _, ht⟩ := fails_of_new_response hc h hrsp hcode
  exact ht

/-- Settles O39: the six kinds of failure, each with its code and info value. -/
theorem failureResponsesOfEachCommand : Obligations.FailureResponsesOfEachCommand := by
  intro s t i rsp hc h hrsp hcode
  obtain ⟨code, info, hfails, rfl, -⟩ := fails_of_new_response hc h hrsp hcode
  cases hfails with
  | keylen _ hk => exact .inl ⟨responseWord_zeroExtend_count _ _, hk, rfl⟩
  | blklen _ hl hn => exact .inr (.inl ⟨_, _, responseWord_zeroExtend_count _ _, hn, hl, rfl⟩)
  | fatal hi hf => exact .inr (.inr (.inl ⟨rfl, hf, hi⟩))
  | nosched _ hv => exact .inr (.inr (.inr (.inl ⟨rfl, hv, _, rfl⟩)))
  | nodata _ hl hv => exact .inr (.inr (.inr (.inr (.inl ⟨_, _, rfl, hl, hv, rfl⟩))))
  | illegal hw => exact .inr (.inr (.inr (.inr (.inr ⟨rfl, hw⟩))))

/-! ## The hold table -/

theorem keySide_released_iff (s : State) :
    (!s.kbusy && s.lanesIdle) = true ↔ s.kbusy = false ∧ ∀ l ∈ s.lanes, l.dbusy = false := by
  rw [Bool.and_eq_true, lanesIdle_iff, Bool.not_eq_true']

theorem laneIdle_eq_true_iff (s : State) (d : LaneNo) :
    s.laneIdle d = true ↔ ∀ l, s.lanes[d.toNat]? = some l → l.dbusy = false := by
  unfold State.laneIdle State.lane?
  cases s.lanes[d.toNat]? <;> simp

theorem released_encrypt_iff (s : State) (d : LaneNo) : released (.encrypt d) s = true ↔
    s.kbusy = false ∧ ∀ l, s.lanes[d.toNat]? = some l → l.dbusy = false := by
  rw [released, Bool.and_eq_true, laneIdle_eq_true_iff, Bool.not_eq_true']

/-- A failure that is not for FATAL or for the lane is that of a command that was not held (the order of R290). -/
theorem Fails.released {s : State} {i : Instr} {code : ResultCode} {info : BitVec 24} (h : Fails s i code info)
    (hw : wellFormed s.nDp i = true) (hf : s.fatal = false) : released i s = true := by
  cases h with
  | fatal _ hf' => simp [hf] at hf'
  | illegal hw' => simp [hw] at hw'
  | keylen hr => exact hr
  | nosched hr => exact hr
  | blklen hr => exact hr
  | nodata hr => exact hr

theorem exec_answers_iff_released {s t : State} {i : Instr} (hc : isCommand i = true)
    (hw : wellFormed s.nDp i = true) (hf : s.fatal = false) (h : exec i s = .next t) :
    (released i s = true → ∃ rsp, t.responses = s.responses ++ [rsp]) ∧ (released i s = false → t = s) := by
  cases exec_command_next hc h with
  | held _ hr => exact ⟨fun hr' => by simp [hr] at hr', fun _ => rfl⟩
  | failed hfails => exact ⟨fun _ => ⟨_, rfl⟩, fun hr => by simp [hfails.released hw hf] at hr⟩
  | done _ hr hs =>
    obtain ⟨-, -, -, -, hkept, -⟩ := hs.frame
    exact ⟨fun _ => ⟨_, by rw [State.answer_responses, hkept]⟩, fun hr' => by simp [hr] at hr'⟩

/-- Settles O40: the hold table is `released`, row by row. -/
theorem commandsAnswerExactlyWhenReleased : Obligations.CommandsAnswerExactlyWhenReleased := by
  intro s t i hc hw hf h
  obtain ⟨hanswers, hheld⟩ := exec_answers_iff_released hc hw hf h
  have hrow (row : Prop) (hrow : released i s = true ↔ row) :
      (row → ∃ rsp, t.responses = s.responses ++ [rsp]) ∧ (¬ row → t = s) :=
    ⟨fun hr => hanswers (hrow.mpr hr), fun hr => hheld (by simpa using fun h => hr (hrow.mp h))⟩
  cases i with
  | keyclr => exact hrow _ (keySide_released_iff s)
  | keypush b => exact hrow _ (keySide_released_iff s)
  | expand => exact hrow _ (keySide_released_iff s)
  | encrypt d => exact hrow _ (released_encrypt_iff s d)
  | doutpop d => exact hrow _ (laneIdle_eq_true_iff s d)
  | nop => exact hrow _ (iff_of_true rfl trivial)
  | kstat => exact hrow _ (iff_of_true rfl trivial)
  | dstat d => exact hrow _ (iff_of_true rfl trivial)
  | dinclr d => exact hrow _ (iff_of_true rfl trivial)
  | dinpush d b => exact hrow _ (iff_of_true rfl trivial)
  | kld _ => cases hc
  | krot _ => cases hc
  | ksub _ => cases hc
  | krc _ => cases hc
  | kst _ => cases hc
  | sb _ _ => cases hc
  | sr _ _ => cases hc
  | mc _ _ => cases hc
  | ark _ _ => cases hc

end Sys2Proof.Machine
end

section
/-! # The step (spec/00_scope.md section 5, spec/30_encoding.md R100, R111, R120, spec/70_reset_and_hazards.md R310)

Where the turn laid down is an enabled agent's, the step is that agent's. What the host's turn then does depends on its
next action. -/

namespace Sys2Proof.Machine

theorem step_of_chooseAgent_some {s : State} {a : Agent} (h : chooseAgent s = some a) :
    step s = agentStep a s.tick := by simp only [step, machineStep, h]

theorem step_of_chooseAgent_none {s : State} (h : chooseAgent s = none) :
    step s = if s.unitBusy then .fault .stuck else .next s := by simp only [step, machineStep, h]

/-- The turn laid down is used up and the step counted, whatever the agent then does. -/
theorem step_of_turn {s : State} {a : Agent} {turns : List Agent} (hs : s.schedule = a :: turns)
    (he : enabled a s = true) :
    step s = agentStep a { s with schedule := turns, stepCount := s.stepCount + 1 } := by
  rw [step_of_chooseAgent_some (chooseAgent_of_head hs he), State.tick, hs]
  rfl

theorem wordHeld_of_instr {s : State} {w : Word} {i : Instr} (h : decode s.nDp (.command w) = .instr i) :
    wordHeld w s = waits i s := by rw [wordHeld, h]

theorem wordHeld_of_illegal {s : State} {w : Word} {why : DecodeError}
    (h : decode s.nDp (.command w) = .illegal why) : wordHeld w s = false := by rw [wordHeld, h]

theorem hostEnabled_of_accepted {s : State} {w : Word} {acts : List HostAction}
    (ha : s.hostActions = .command w :: acts) (hw : wordHeld w s = false) : hostEnabled s = true := by
  rw [hostEnabled, ha]
  simp [hw]

theorem hostStep_of_accepted {s : State} {w : Word} {acts : List HostAction}
    (ha : s.hostActions = .command w :: acts) (hw : wordHeld w s = false) :
    hostStep s = issueWord w (s.setHost acts) := by
  rw [hostStep, ha]
  simp only [hw]
  rfl

/-- An accepted word that is a command is executed. -/
theorem hostStep_of_instr {s : State} {w : Word} {acts : List HostAction} {i : Instr}
    (ha : s.hostActions = .command w :: acts) (hd : decode s.nDp (.command w) = .instr i)
    (hw : waits i s = false) : hostStep s = exec i (s.setHost acts) := by
  rw [hostStep_of_accepted ha ((wordHeld_of_instr hd).trans hw), issueWord, State.setHost_nDp, hd]

/-- A word that is none is answered with E_ILLEGAL. -/
theorem hostStep_of_illegal {s : State} {w : Word} {acts : List HostAction} {why : DecodeError}
    (ha : s.hostActions = .command w :: acts) (hd : decode s.nDp (.command w) = .illegal why) :
    hostStep s = .next ((s.setHost acts).answer (responseWord .eIllegal 0#24)) := by
  rw [hostStep_of_accepted ha (wordHeld_of_illegal hd), issueWord, State.setHost_nDp, hd]
  rfl

/-- Settles O5: the host is enabled, and its turn is `exec` of the decoded word. -/
theorem stepRunsTheIssuedCommand : Obligations.StepRunsTheIssuedCommand := by
  intro s w i turns acts hs ha hd hw
  rw [step_of_turn hs (hostEnabled_of_accepted ha ((wordHeld_of_instr hd).trans hw))]
  exact hostStep_of_instr ha hd hw

/-- Settles O6: a busy unit whose sequencer value decodes is enabled, and its turn is `exec` of what it selects. -/
theorem stepRunsTheSelectedMicroOp : Obligations.StepRunsTheSelectedMicroOp := by
  refine ⟨fun s i turns hs hb hd => ?_, fun s i d l turns hs hl hb hd => ?_⟩
  · have hsel : kseNext s = some i := kseNext_eq_some.mpr ⟨hb, hd⟩
    rw [step_of_turn hs (Option.isSome_of_mem hsel)]
    exact agentStep_kse_of_some hsel
  · have hd' : decodeDpc d (dpcBits l.dpc.rnd l.dpc.ph) = .instr i := by
      rw [decode, if_pos (laneLegal_of_lane? hl)] at hd
      exact hd
    have hsel : laneNext s d = some i := laneNext_eq_some.mpr ⟨l, hl, hb, hd'⟩
    rw [step_of_turn hs (Option.isSome_of_mem hsel)]
    exact agentStep_lane_of_some hsel

theorem freePick_eq_none {s : State} (h : ∀ a ∈ s.agents, enabled a s = false) : freePick s = none := by
  cases hp : freePick s with
  | none => rfl
  | some a =>
    obtain ⟨ha, he⟩ := freePick_eq_some hp
    simp [h a ha] at he

theorem chooseAgent_of_no_turns {s : State} (hs : s.schedule = []) : chooseAgent s = freePick s := by
  rw [chooseAgent, hs]

/-- Settles O7: with no turn laid down the agent is the free pick, which exists exactly when some agent is enabled and
is then an enabled agent, whatever the free value. -/
theorem someEnabledAgentSteps : Obligations.SomeEnabledAgentSteps := by
  refine fun s hs => ⟨fun ⟨a, ha, he⟩ => ?_, fun hnone hidle => ?_⟩
  · obtain ⟨b, hb⟩ := freePick_isSome ha he
    obtain ⟨hmem, hen⟩ := freePick_eq_some hb
    exact ⟨b, hmem, hen, step_of_chooseAgent_some ((chooseAgent_of_no_turns hs).trans hb)⟩
  · rw [step_of_chooseAgent_none ((chooseAgent_of_no_turns hs).trans (freePick_eq_none hnone)), hidle]
    rfl

/-- Settles O9: an illegal word is never held, so the host is enabled and its turn answers E_ILLEGAL. -/
theorem illegalWordAnswersAndChangesNothing : Obligations.IllegalWordAnswersAndChangesNothing := by
  intro s w why turns acts hs ha hd
  rw [step_of_turn hs (hostEnabled_of_accepted ha (wordHeld_of_illegal hd))]
  exact hostStep_of_illegal ha hd

/-- Settles O12: a reset, alone or behind a held command, is an enabled step of the host. -/
theorem resetInAnyState : Obligations.ResetInAnyState := by
  refine ⟨fun s turns acts hs ha => ?_, fun s w turns acts hs ha hw => ?_⟩
  · have he : hostEnabled s = true := by rw [hostEnabled, ha]
    rw [step_of_turn hs he]
    change hostStep _ = _
    rw [hostStep, ha]
    rfl
  · have he : hostEnabled s = true := by
      rw [hostEnabled, ha]
      simp
    rw [step_of_turn hs he]
    change hostStep _ = _
    rw [hostStep, ha]
    exact if_pos hw

/-! ## While a command is held -/

theorem not_hostEnabled_of_held {s : State} {w : Word} {acts : List HostAction}
    (ha : s.hostActions = .command w :: acts) (hr : acts.head? ≠ some .reset) (hw : wordHeld w s = true) :
    hostEnabled s = false := by
  rw [hostEnabled, ha]
  simp [hw, hr]

/-- Settles O10: the host is not enabled, so the step is a unit's turn or none, and a unit leaves the host's side
alone. -/
theorem heldCommandStaysPending : Obligations.HeldCommandStaysPending := by
  intro s t w acts ha hr hw h
  have hhost := not_hostEnabled_of_held ha hr hw
  rcases step_eq_next h with ⟨a, -, he, hstep⟩ | ⟨-, -, rfl⟩
  · cases a with
    | host => exact absurd he (by simp [enabled, hhost])
    | kse =>
      rw [agentStep_kse] at hstep
      cases hstep
      exact ⟨State.kseTurn_hostActions _, State.kseTurn_responses _⟩
    | lane d =>
      rw [agentStep_lane] at hstep
      cases hstep
      exact ⟨rfl, rfl⟩
  · exact ⟨rfl, rfl⟩

/-! ## Placing an instruction (log entry 5) -/

theorem codeOfTableWord_cases {nbits w : Nat} {c : Code} (h : codeOfTableWord nbits w = some c) :
    (∃ v, c = .dpc 0#8 v) ∨ (∃ v, c = .kpc v) ∨ ∃ v, c = .command v := by
  unfold codeOfTableWord at h
  split_ifs at h
  · exact .inl ⟨_, (Option.some_inj.mp h).symm⟩
  · exact .inr (.inl ⟨_, (Option.some_inj.mp h).symm⟩)
  · exact .inr (.inr ⟨_, (Option.some_inj.mp h).symm⟩)

/-- Of the lanes, placing writes busy bits and sequencer counters only. -/
theorem map_forget_modify (ls : List Lane) (n : Nat) (p : Dpc) :
    (ls.modify n fun l => { l with dbusy := true, dpc := p }).map
        (fun l => { l with dbusy := false, dpc := ⟨0#4, 0#2⟩ }) =
      ls.map (fun l => { l with dbusy := false, dpc := ⟨0#4, 0#2⟩ }) := by
  apply List.ext_getElem?
  intro j
  simp only [List.getElem?_map, List.getElem?_modify]
  cases ls[j]? with
  | none => rfl
  | some l => by_cases hj : n = j <;> simp [hj]

theorem step_place_command {s : State} {w : Word} {i : Instr} (hd : decode s.nDp (.command w) = .instr i)
    (hw : waits i s = false) : step (s.place (.command w)) = exec i { s with stepCount := s.stepCount + 1 } := by
  have hheld : wordHeld w (s.place (.command w)) = false := (wordHeld_of_instr hd).trans hw
  have hen : enabled .host (s.place (.command w)) = true := hostEnabled_of_accepted rfl hheld
  rw [step_of_turn rfl hen]
  exact hostStep_of_instr (s := { s.place (.command w) with schedule := s.schedule, stepCount := s.stepCount + 1 })
    rfl hd hw

theorem step_place_kpc {s : State} {v : BitVec 9} {i : Instr} (hd : decodeKpc v = .instr i) :
    step (s.place (.kpc v)) = exec i { s with
      kbusy := true, kpc := ⟨v.extractLsb' 3 6, v.extractLsb' 0 3⟩, stepCount := s.stepCount + 1 } := by
  rw [← kpcBits_fields v] at hd
  have hsel : kseNext (s.place (.kpc v)) = some i := (kseNext_of_kpc rfl rfl i).mpr hd
  have hen : enabled .kse (s.place (.kpc v)) = true := Option.isSome_of_mem hsel
  rw [step_of_turn rfl hen]
  exact agentStep_kse_of_some hsel

theorem step_place_dpc {s : State} {d : LaneNo} {v : BitVec 6} {i : Instr} (hlegal : laneLegal s.nDp d = true)
    (hd : decodeDpc d v = .instr i) : step (s.place (.dpc d v)) = exec i { s with
      lanes := (s.place (.dpc d v)).lanes, stepCount := s.stepCount + 1 } := by
  rw [← dpcBits_fields v] at hd
  obtain ⟨l, hl⟩ := (laneLegal_iff s d).mp hlegal
  have hlane : (s.place (.dpc d v)).lane? d =
      some { l with dbusy := true, dpc := ⟨v.extractLsb' 2 4, v.extractLsb' 0 2⟩ } := by
    rw [lane?_eq_some_iff] at hl ⊢
    simp only [State.place]
    rw [List.getElem?_modify_eq, hl]
    rfl
  have hsel : laneNext (s.place (.dpc d v)) d = some i := (laneNext_of_dpc hlane rfl rfl i).mpr hd
  have hen : enabled (.lane d) (s.place (.dpc d v)) = true := Option.isSome_of_mem hsel
  rw [step_of_turn rfl hen]
  exact agentStep_lane_of_some hsel

theorem isCommand_of_decodeKpc {v : BitVec 9} {i : Instr} (hd : decodeKpc v = .instr i) : isCommand i = false := by
  rw [← kpcBits_fields v] at hd
  rcases (decodeKpc_eq_instr _ _ i).mp hd with ⟨-, -, rfl⟩ | ⟨-, -, rfl⟩ | ⟨-, -, rfl⟩ | ⟨-, -, rfl⟩ | ⟨-, -, rfl⟩ <;>
    rfl

theorem isCommand_of_decodeDpc {d : LaneNo} {v : BitVec 6} {i : Instr} (hd : decodeDpc d v = .instr i) :
    isCommand i = false := by
  rw [← dpcBits_fields v] at hd
  rcases (decodeDpc_eq_instr _ _ _ i).mp hd with ⟨-, -, rfl⟩ | ⟨-, -, rfl⟩ | ⟨-, -, rfl⟩ | ⟨-, -, rfl⟩ <;> rfl

/-- Settles O8: the placed state lays down the turn of the agent concerned, enabled at the placed code, and the step
uses that turn up. -/
theorem placedInstructionRunsNext : Obligations.PlacedInstructionRunsNext := by
  intro s nbits w c i hcode hd hw
  rw [State.withFetchWord, hcode]
  rcases codeOfTableWord_cases hcode with ⟨v, rfl⟩ | ⟨v, rfl⟩ | ⟨v, rfl⟩
  · rw [decode] at hd
    split at hd
    · rename_i hlegal
      exact ⟨_, step_place_dpc hlegal hd, rfl, map_forget_modify _ _ _,
        fun h => by simp [isCommand_of_decodeDpc hd] at h⟩
    · cases hd
  · exact ⟨_, step_place_kpc hd, rfl, rfl, fun h => by simp [isCommand_of_decodeKpc hd] at h⟩
  · exact ⟨_, step_place_command hd hw, rfl, rfl, fun _ => rfl⟩

/-! ## Where the step stops -/

/-- With no agent to choose, none is enabled: not the one laid down either, if it is an agent of this core. -/
theorem not_enabled_of_chooseAgent_none {s : State} (h : chooseAgent s = none) :
    ∀ a ∈ s.agents, enabled a s = false := by
  intro a ha
  by_contra he
  obtain ⟨b, hb⟩ := freePick_isSome ha (Bool.not_eq_false _ ▸ he)
  unfold chooseAgent at h
  split at h
  · split at h
    · cases h
    · rw [hb] at h; cases h
  · rw [hb] at h; cases h

/-- What the host's turn answers: a next state, or what the command it issues answers. -/
theorem hostStep_cases (s : State) : (∃ t, hostStep s = .next t) ∨
    ∃ w acts i, s.hostActions = .command w :: acts ∧ wordHeld w s = false ∧
      decode s.nDp (.command w) = .instr i ∧ hostStep s = exec i (s.setHost acts) := by
  cases ha : s.hostActions with
  | nil => exact .inl ⟨s, by rw [hostStep, ha]⟩
  | cons action acts =>
    cases action with
    | reset => exact .inl ⟨_, by rw [hostStep, ha]⟩
    | command w =>
      cases hw : wordHeld w s with
      | true =>
        refine .inl ?_
        rw [hostStep, ha]
        simp only [hw]
        rcases acts with _ | ⟨_ | _, _⟩ <;> exact ⟨_, rfl⟩
      | false =>
        cases hd : decode s.nDp (.command w) with
        | illegal why => exact .inl ⟨_, hostStep_of_illegal ha hd⟩
        | instr i =>
          exact .inr ⟨w, acts, i, rfl, hw, hd, hostStep_of_instr ha hd ((wordHeld_of_instr hd).symm.trans hw)⟩

/-- Only the host's turn can stop, by the pop it issues. -/
theorem agentStep_answers_or_stops (a : Agent) (s : State) :
    (∃ t, agentStep a s = .next t) ∨ agentStep a s = .fault .noSuchByte := by
  cases a with
  | kse => exact .inl ⟨_, agentStep_kse s⟩
  | lane d => exact .inl ⟨_, agentStep_lane s d⟩
  | host =>
    rcases hostStep_cases s with h | ⟨w, acts, i, -, -, hd, h⟩
    · exact .inl h
    · rcases exec_command_answers_or_stops (s.setHost acts) (isCommand_of_decode hd) with ⟨t, ht⟩ | ⟨hstop, -⟩
      · exact .inl ⟨t, h.trans ht⟩
      · exact .inr (h.trans hstop)

/-- The three things a step can answer. -/
theorem step_answers_or_stops (s : State) : (∃ t, step s = .next t) ∨ step s = .fault .noSuchByte ∨
    (step s = .fault .stuck ∧ s.unitBusy = true ∧ ∀ a ∈ s.agents, enabled a s = false) := by
  cases ha : chooseAgent s with
  | some a =>
    rw [step_of_chooseAgent_some ha]
    exact (agentStep_answers_or_stops a s.tick).imp_right .inl
  | none =>
    rw [step_of_chooseAgent_none ha]
    cases hb : s.unitBusy with
    | false => exact .inl ⟨s, rfl⟩
    | true => exact .inr (.inr ⟨rfl, rfl, not_enabled_of_chooseAgent_none ha⟩)

/-- Settles O32: the stops of `exec` are among its outcomes, and those of the step among the step's. -/
theorem theOnlyStops : Obligations.TheOnlyStops := by
  refine ⟨fun s i hc => ?micro, fun s i hc => exec_command_answers_or_stops s hc,
    fun s d l hl hf hb hv hrd => exec_doutpop_of_past_end hl hf hb hv hrd, fun s f h => ?fault, fun s why h => ?refused⟩
  case micro =>
    have hout := exec_microOp s hc
    generalize exec i s = r at hout
    cases hout with
    | kse => exact .inl ⟨_, rfl⟩
    | lane => exact .inl ⟨_, rfl⟩
    | unselected => exact .inr rfl
  case fault =>
    rcases step_answers_or_stops s with ⟨t, ht⟩ | hstop | ⟨hstop, hb, hnone⟩
    · cases ht.symm.trans h
    · cases hstop.symm.trans h; exact .inr rfl
    · cases hstop.symm.trans h; exact .inl ⟨rfl, hb, hnone⟩
  case refused =>
    rcases step_answers_or_stops s with ⟨t, ht⟩ | hstop | ⟨hstop, -⟩
    · cases ht.symm.trans h
    · cases hstop.symm.trans h
    · cases hstop.symm.trans h

end Sys2Proof.Machine
end

section
/-! # The invariants of R51 (spec/10_state.md section 5)

Each effect keeps them: one lemma per effect of a command, one per phase of a unit, one for the reset. A step is one of
these by the outcomes above. -/

namespace Sys2Proof.Machine

/-! ## The key side -/

/-- An effect on the key side keeps the invariants where every lane is idle and its own key side satisfies them. -/
theorem State.Inv.of_keyInv {s t : State} (h : s.Inv) (hf : s.fatal = false) (hidle : ∀ l ∈ s.lanes, l.dbusy = false)
    (hroms : t.roms = s.roms) (hlanes : t.lanes = s.lanes) (hfatal : t.fatal = s.fatal) (hkey : KeyInv t) : t.Inv where
  legal := by rw [State.config, State.nDp, hlanes, hroms]; exact h.legal
  fatal := by rw [hfatal, hroms]; exact h.fatal
  key := hkey
  lane := by
    intro l hl
    rw [hlanes] at hl
    exact ⟨fun hb => by simp [hidle l hl] at hb, (h.lane l hl).idle, (h.lane l hl).rd⟩
  exclusive := fun _ => by rw [hlanes]; exact hidle
  corrupt := fun hf' => by simp [hfatal, hf] at hf'

/-- Without a valid schedule an idle engine has little to satisfy. -/
theorem KeyInv.of_idle {t : State} (hv : t.kvalid = false) (hb : t.kbusy = false) (hk : t.kpc = ⟨0#6, 0#3⟩)
    (ht : t.temp = 0#32) : KeyInv t where
  valid := fun h => by simp [hv] at h
  busy := fun h => by simp [hb] at h
  temp := fun h => by simp [hb] at h
  idle := fun _ => ⟨hk, ht⟩

theorem KeyInv.clearKeySide {s : State} (h : KeyInv s) (hb : s.kbusy = false) : KeyInv s.clearKeySide :=
  .of_idle rfl hb (h.idle hb).1 rfl

theorem KeyInv.pushKey {s : State} (h : KeyInv s) (hb : s.kbusy = false) (b : Byte) : KeyInv (s.pushKey b) :=
  .of_idle rfl hb (h.idle hb).1 (h.idle hb).2

/-- EXPAND has put the four key words in place. -/
theorem KeyInv.beginExpansion {s : State} (hc : s.keycnt = 16#5) : KeyInv s.beginExpansion where
  valid := fun h => by simp at h
  busy := by
    refine fun _ => ⟨by simpa using hc, by simp, by rw [State.beginExpansion_kpc]; decide, fun i hi => ?_⟩
    have hi4 : i < 4 := by rwa [State.beginExpansion_kpc] at hi
    rw [State.beginExpansion_w, State.beginExpansion_roms, State.beginExpansion_keybuf]
    exact (wordAt_loadKeyWords _ _ ⟨i, hi4⟩).trans (wordAt_keyExpansion_key _ _ ⟨i, hi4⟩).symm
  temp := by
    refine fun _ => ⟨?_, ?_, ?_, ?_⟩ <;> rw [State.beginExpansion_kpc] <;> intro h <;> exact absurd h (by decide)
  idle := fun h => by simp at h

/-- A micro-operation on TEMP keeps the word under construction. -/
theorem KeyInv.setTemp {s : State} {t : Word} {k : Kpc} (h : KeyInv s) (hb : s.kbusy = true)
    (hidx : k.kidx = s.kpc.kidx) (hreach : k.reachable = true) (htemp : TempInv (s.setTemp t k)) :
    KeyInv (s.setTemp t k) := by
  obtain ⟨hcnt, hvalid, -, hwords⟩ := h.busy hb
  exact ⟨fun hv => by simp [hvalid] at hv,
    fun _ => ⟨hcnt, hvalid, hreach, by rw [State.setTemp_kpc, hidx]; exact hwords⟩,
    fun _ => htemp, fun hb' => by simp [hb] at hb'⟩

/-- What KST stores is the word of KeyExpansion: TEMP holds what R164 adds to W[r-4]. -/
theorem KeyInv.stored_word {s : State} (h : KeyInv s) (hb : s.kbusy = true) (hph : s.kpc.kph = 4#3)
    (h4 : 4 ≤ s.kpc.kidx.toNat) (h43 : s.kpc.kidx.toNat ≤ 43) :
    wordAt s.w (s.kpc.kidx.toNat - 4) ^^^ s.temp = wordAt (keyExpansion s.roms s.keybuf) s.kpc.kidx.toNat := by
  obtain ⟨-, -, -, hwords⟩ := h.busy hb
  have hrec := wordAt_keyExpansion_derived s.roms s.keybuf (s.kpc.kidx.toNat - 4) (by omega)
  rw [Nat.sub_add_cancel h4] at hrec
  rw [hrec, nextWord, ← hwords _ (by omega), ← hwords _ (by omega), (h.temp hb).atKst hph]

/-- The words stored so far and the one KST stores. -/
theorem KeyInv.words_of_store {s : State} (h : KeyInv s) (hb : s.kbusy = true) (hph : s.kpc.kph = 4#3)
    (h4 : 4 ≤ s.kpc.kidx.toNat) (h43 : s.kpc.kidx.toNat ≤ 43) (i : Nat) (hi : i < s.kpc.kidx.toNat + 1) :
    wordAt (setWord s.w s.kpc.kidx.toNat (wordAt s.w (s.kpc.kidx.toNat - 4) ^^^ s.temp)) i =
      wordAt (keyExpansion s.roms s.keybuf) i := by
  obtain ⟨-, -, -, hwords⟩ := h.busy hb
  rw [wordAt_setWord _ _ _ _ (by omega)]
  split
  · rename_i heq
    rw [h.stored_word hb hph h4 h43, heq]
  · exact hwords i (by omega)

/-- Every phase of the engine keeps the key side's invariants. -/
theorem KeyInv.kseMicro {s : State} {i : Instr} (h : KeyInv s) (hsel : kseNext s = some i) : KeyInv s.kseMicro := by
  obtain ⟨hb, hphase⟩ := kseNext_at hsel
  have htemp := h.temp hb
  rcases hphase with ⟨r, hk, hr, -⟩ | ⟨r, hk, hr, -⟩ | ⟨r, hk, hr, -⟩ | ⟨r, hk, hr, -⟩ | ⟨r, hk, hr, -⟩
  · have hmicro : s.kseMicro = s.setTemp (wordAt s.w (r.toNat - 1)) (nextKpc r 0#3) := by
      rw [State.kseMicro, hk]; rfl
    have hr' := (kidxLegal_iff r).mp hr
    rw [hmicro, nextKpc_kld]
    split
    · rename_i h4
      refine h.setTemp hb (by rw [hk]) ?_ ⟨?_, ?_, ?_, ?_⟩
      · rw [kpc_reachable_iff, kidxRoundLegal_iff]
        exact .inr (.inl ⟨rfl, by omega⟩)
      all_goals simp
    · rename_i h4
      refine h.setTemp hb (by rw [hk]) ((kpc_reachable_iff _ _).mpr (by simp [hr])) ⟨?_, ?_, ?_, ?_⟩
      all_goals simp [h4]
  · have hmicro : s.kseMicro = s.setTemp (rotWord s.temp) ⟨r, 2#3⟩ := by rw [State.kseMicro, hk]; rfl
    have hbefore := htemp.atKrot (by rw [hk])
    rw [hk] at hbefore
    rw [hmicro]
    refine h.setTemp hb (by rw [hk]) ((kpc_reachable_iff _ _).mpr (by simp [hr])) ⟨?_, ?_, ?_, ?_⟩
    all_goals simp [hbefore]
  · have hmicro : s.kseMicro = s.setTemp (subWord s.roms s.temp) ⟨r, 3#3⟩ := by rw [State.kseMicro, hk]; rfl
    have hbefore := htemp.atKsub (by rw [hk])
    rw [hk] at hbefore
    rw [hmicro]
    refine h.setTemp hb (by rw [hk]) ((kpc_reachable_iff _ _).mpr (by simp [hr])) ⟨?_, ?_, ?_, ?_⟩
    all_goals simp [hbefore]
  · have hmicro : s.kseMicro = s.setTemp (s.temp ^^^ s.roms.rconAt (r.toNat / 4)) ⟨r, 4#3⟩ := by
      rw [State.kseMicro, hk]; rfl
    have hbefore := htemp.atKrc (by rw [hk])
    rw [hk] at hbefore
    obtain ⟨h4, h40, hmod⟩ := (kidxRoundLegal_iff r).mp hr
    rw [hmicro]
    refine h.setTemp hb (by rw [hk]) ?_ ⟨?_, ?_, ?_, ?_⟩
    · rw [kpc_reachable_iff, kidxLegal_iff]
      exact .inr (.inr (.inr (.inr ⟨rfl, by omega⟩)))
    all_goals simp [hbefore, hmod, keyG]
  · obtain ⟨h4, h43⟩ := (kidxLegal_iff r).mp hr
    obtain ⟨hcnt, hvalid, -, -⟩ := h.busy hb
    have hwords := h.words_of_store hb (by rw [hk]) (by rw [hk]; exact h4) (by rw [hk]; exact h43)
    rw [hk] at hwords
    by_cases hlast : r.toNat < 43
    · have hmicro : s.kseMicro =
          s.storeWord r.toNat (wordAt s.w (r.toNat - 4) ^^^ s.temp) ⟨r + 1#6, 0#3⟩ := by
        rw [State.kseMicro, hk]; exact if_pos hlast
      rw [hmicro]
      refine ⟨fun hv => by simp [hvalid] at hv, fun _ => ⟨hcnt, hvalid, ?_, fun i hi => ?_⟩,
        fun _ => ⟨?_, ?_, ?_, ?_⟩, fun hb' => by simp [hb] at hb'⟩
      · rw [State.storeWord_kpc, kpc_reachable_iff, kidxLegal_iff, kidx_succ_toNat r hlast]
        exact .inl ⟨rfl, by omega⟩
      · refine hwords i ?_
        rwa [State.storeWord_kpc, kidx_succ_toNat r hlast] at hi
      all_goals simp
    · have hmicro : s.kseMicro = s.endExpansion r.toNat (wordAt s.w (r.toNat - 4) ^^^ s.temp) := by
        rw [State.kseMicro, hk]; exact if_neg hlast
      rw [hmicro]
      exact ⟨fun _ => ⟨rfl, hcnt, schedule_ext fun i hi => hwords i (by simp only; omega)⟩, fun hb' => by simp at hb',
        fun hb' => by simp at hb', fun _ => ⟨rfl, rfl⟩⟩

/-- With FATAL = 1 neither kind of unit is busy. -/
theorem State.Inv.fatal_eq_false_of_kbusy {s : State} (h : s.Inv) (hb : s.kbusy = true) : s.fatal = false := by
  cases hf : s.fatal with
  | false => rfl
  | true => simp [(h.corrupt hf).kbusy] at hb

theorem State.Inv.fatal_eq_false_of_dbusy {s : State} (h : s.Inv) {l : Lane} (hl : l ∈ s.lanes)
    (hb : l.dbusy = true) : s.fatal = false := by
  cases hf : s.fatal with
  | false => rfl
  | true =>
    rw [(h.corrupt hf).lanes l hl] at hb
    cases hb

/-- The engine's turn keeps the invariants. -/
theorem State.Inv.kseTurn {s : State} (h : s.Inv) : s.kseTurn.Inv := by
  cases hsel : kseNext s with
  | none =>
    rw [kseTurn_of_not_enabled]
    · exact h
    · rw [← kseNext_isSome_iff, hsel]
      exact Bool.false_ne_true
  | some i =>
    have hb := (kseNext_at hsel).1
    have hkey := h.key.kseMicro hsel
    rw [← kseTurn_of_kseNext hsel] at hkey
    exact h.of_keyInv (h.fatal_eq_false_of_kbusy hb) (h.exclusive hb) (State.kseTurn_roms s) (State.kseTurn_lanes s)
      (State.kseTurn_fatal s) hkey

/-! ## A lane -/

/-- A lane's invariants do not speak of its buffers' bytes but for an idle lane's State. -/
theorem LaneInv.congr {s : State} {l m : Lane} (h : LaneInv s l) (hs : m.s = l.s) (hv : m.doutvalid = l.doutvalid)
    (hrd : m.doutrd = l.doutrd) (hb : m.dbusy = l.dbusy) (hk : m.dpc = l.dpc) : LaneInv s m := by
  refine ⟨?_, ?_, ?_⟩
  · rw [hb, hv, hk]; exact h.busy
  · rw [hb, hk, hs]; exact h.idle
  · rw [hv, hrd]; exact h.rd

theorem LaneInv.clearIn {s : State} {l : Lane} (h : LaneInv s l) : LaneInv s l.clearIn := h.congr rfl rfl rfl rfl rfl

theorem LaneInv.push {s : State} {l : Lane} (h : LaneInv s l) (b : Byte) : LaneInv s (l.push b) :=
  h.congr rfl rfl rfl rfl rfl

theorem LaneInv.start {s : State} (l : Lane) (hv : s.kvalid = true) (hk : s.kbusy = false) : LaneInv s l.start :=
  ⟨fun _ => ⟨hv, hk, rfl, by rw [Lane.start_dpc]; decide⟩, nofun, fun _ => rfl, Nat.zero_le _⟩

theorem LaneInv.pop {s : State} {l : Lane} (h : LaneInv s l) (hb : l.dbusy = false) (hv : l.doutvalid = true) :
    LaneInv s l.pop := by
  refine ⟨fun hb' => by simp [hb] at hb', fun _ => by simpa using h.idle hb, ?_⟩
  rw [Lane.pop_doutvalid, Lane.pop_doutrd]
  have hrd := h.rd.2
  split
  · exact ⟨fun _ => rfl, Nat.zero_le _⟩
  · rename_i hne
    exact ⟨fun hv' => by simp [hv] at hv', by bv_omega⟩

theorem LaneInv.setS {s : State} {l : Lane} (h : LaneInv s l) (hb : l.dbusy = true) (t : Block) {p : Dpc}
    (hp : p.reachable = true) : LaneInv s (l.setS t p) := by
  obtain ⟨hv, hk, hdv, -⟩ := h.busy hb
  exact ⟨fun _ => ⟨hv, hk, hdv, hp⟩, fun hb' => by simp [hb] at hb', h.rd⟩

theorem LaneInv.finish {s : State} (l : Lane) (t : Block) : LaneInv s (l.finish t) :=
  ⟨nofun, fun _ => ⟨rfl, rfl⟩, nofun, Nat.zero_le _⟩

/-- Every phase of a lane keeps its invariants. -/
theorem LaneInv.micro {s : State} {l : Lane} (h : LaneInv s l) (hb : l.dbusy = true) (r : Roms) (w : Schedule) :
    LaneInv s (l.micro r w) := by
  obtain ⟨-, -, -, hreach⟩ := h.busy hb
  rcases hk : l.dpc with ⟨n, ph⟩
  rw [hk] at hreach
  rcases (dpc_reachable_iff n ph).mp hreach with ⟨rfl, hn⟩ | ⟨rfl, hn⟩ | ⟨rfl, hn⟩ | ⟨rfl, hn⟩
  · have hmicro : l.micro r w = l.setS (subBytes r l.s) ⟨n, 1#2⟩ := by rw [Lane.micro, hk]; rfl
    rw [hmicro]
    exact h.setS hb _ ((dpc_reachable_iff _ _).mpr (.inr (.inl ⟨rfl, hn⟩)))
  · have hmicro : l.micro r w = l.setS (shiftRows l.s) (nextDpc n 1#2) := by rw [Lane.micro, hk]; rfl
    have hn' := (rndLegal_iff n).mp hn
    rw [hmicro, nextDpc_sr]
    refine h.setS hb _ ?_
    split
    · rw [dpc_reachable_iff, rndMixLegal_iff]
      exact .inr (.inr (.inl ⟨rfl, by omega⟩))
    · rw [dpc_reachable_iff, rndKeyLegal_iff]
      exact .inr (.inr (.inr ⟨rfl, by omega⟩))
  · have hmicro : l.micro r w = l.setS (mixColumns l.s) ⟨n, 3#2⟩ := by rw [Lane.micro, hk]; rfl
    have hn' := (rndMixLegal_iff n).mp hn
    rw [hmicro]
    refine h.setS hb _ ?_
    rw [dpc_reachable_iff, rndKeyLegal_iff]
    exact .inr (.inr (.inr ⟨rfl, by omega⟩))
  · by_cases hlast : n.toNat < 10
    · have hmicro : l.micro r w = l.setS (addRoundKey l.s w n.toNat) ⟨n + 1#4, 0#2⟩ := by
        rw [Lane.micro, hk]; exact if_pos hlast
      rw [hmicro]
      refine h.setS hb _ ?_
      rw [dpc_reachable_iff, rndLegal_iff, rnd_succ_toNat n hlast]
      exact .inl ⟨rfl, by omega⟩
    · have hmicro : l.micro r w = l.finish (addRoundKey l.s w n.toNat) := by
        rw [Lane.micro, hk]; exact if_neg hlast
      rw [hmicro]
      exact .finish l _

/-- A lane's turn keeps the invariants. -/
theorem State.Inv.updateLane_turn {s : State} (h : s.Inv) (d : LaneNo) :
    (s.updateLane d (Lane.turn s.roms s.w)).Inv := by
  cases hl : s.lane? d with
  | none => rw [updateLane_of_none _ hl]; exact h
  | some l =>
    rw [updateLane_of_some _ hl]
    by_cases hen : l.dbusy = true ∧ l.dpc.reachable = true
    · have hmem := mem_of_lane? hl
      rw [Lane.turn_of_enabled _ _ hen.1 hen.2]
      exact h.setLane hl ((h.lane l hmem).micro hen.1 _ _) (fun _ => .inl hen.1)
        (h.fatal_eq_false_of_dbusy hmem hen.1)
    · rw [Lane.turn_of_not_enabled _ _ hen, setLane_of_lane? hl]
      exact h

end Sys2Proof.Machine
end

section
/-! # Every step keeps the invariants (spec/10_state.md section 5, spec/20_memory.md R81, spec/60_exceptions.md R283) -/

namespace Sys2Proof.Machine

/-- A success keeps the invariants; where it needs an idle unit, the hold of R292 has seen to it. -/
theorem State.Inv.succeeds {s u : State} {i : Instr} {v : BitVec 24} (h : s.Inv) (hs : Succeeds s i u v)
    (hf : isStatus i = false → s.fatal = false) (hr : released i s = true) : u.Inv := by
  cases hs with
  | nop => exact h
  | kstat => exact h
  | dstat => exact h
  | keyclr =>
    obtain ⟨hb, hidle⟩ := (keySide_released_iff s).mp hr
    exact h.of_keyInv (hf rfl) hidle rfl rfl rfl (h.key.clearKeySide hb)
  | keypush b =>
    obtain ⟨hb, hidle⟩ := (keySide_released_iff s).mp hr
    exact h.of_keyInv (hf rfl) hidle rfl rfl rfl (h.key.pushKey hb b)
  | expand hc =>
    obtain ⟨-, hidle⟩ := (keySide_released_iff s).mp hr
    exact h.of_keyInv (hf rfl) hidle (by simp) (by simp) (by simp) (.beginExpansion hc)
  | dinclr hl => exact h.setLane hl (h.lane _ (mem_of_lane? hl)).clearIn .inl (hf rfl)
  | dinpush b hl => exact h.setLane hl ((h.lane _ (mem_of_lane? hl)).push b) .inl (hf rfl)
  | encrypt hl hv =>
    obtain ⟨hb, -⟩ := (released_encrypt_iff s _).mp hr
    exact h.setLane hl (.start _ hv hb) (fun _ => .inr hb) (hf rfl)
  | doutpop hl hv =>
    have hb := (laneIdle_eq_true_iff s _).mp hr _ hl
    exact h.setLane hl ((h.lane _ (mem_of_lane? hl)).pop hb hv) (fun hb' => by simp [hb] at hb') (hf rfl)

theorem State.Inv.exec_command {s t : State} {i : Instr} (h : s.Inv) (hc : isCommand i = true)
    (he : exec i s = .next t) : t.Inv := by
  cases exec_command_next hc he with
  | held => exact h
  | failed => exact h.answer _
  | done hf hr hs => exact (h.succeeds hs hf hr).answer _

/-- The reset gives the invariants of any legal configuration: no unit is busy, and with FATAL = 1 every item is at its
reset value already. -/
theorem State.resetWith_inv {c : Config} (hc : c.legal = true) : (State.resetWith c).Inv where
  legal := by rw [State.config, State.resetWith_nDp, State.resetWith_roms]; exact hc
  fatal := rfl
  key := .of_idle rfl rfl rfl rfl
  lane := by
    intro l hl
    rw [State.eq_reset_of_mem_resetWith_lanes hl]
    exact ⟨nofun, fun _ => ⟨rfl, rfl⟩, fun _ => rfl, Nat.zero_le _⟩
  exclusive := nofun
  corrupt := fun _ => ⟨rfl, rfl, rfl, rfl, rfl, rfl, rfl, fun _ hl => State.eq_reset_of_mem_resetWith_lanes hl⟩

/-- Settles O42. -/
theorem resetSatisfiesTheInvariants : Obligations.ResetSatisfiesTheInvariants := fun _ => State.resetWith_inv

theorem State.Inv.hardwareReset {s : State} (h : s.Inv) : s.hardwareReset.Inv :=
  (State.resetWith_inv h.legal).withHostSide _ _ _ _

theorem State.Inv.of_hostStep {s t : State} (h : s.Inv) (hstep : hostStep s = .next t) : t.Inv := by
  rcases hostStep_eq_next hstep with ⟨-, rfl⟩ | ⟨rest, -, rfl⟩ | ⟨w, rest, -, -, rfl⟩ | ⟨w, rest, -, -, -, rfl⟩ |
    ⟨w, rest, why, -, -, rfl⟩ | ⟨w, rest, i, -, -, hd, he⟩
  · exact h
  · exact (h.setHost rest).hardwareReset
  · exact (h.setHost rest).hardwareReset
  · exact h
  · exact (h.setHost rest).answer _
  · exact (h.setHost rest).exec_command (isCommand_of_decode hd) he

theorem State.Inv.of_agentStep {s t : State} {a : Agent} (h : s.Inv) (hstep : agentStep a s = .next t) : t.Inv := by
  cases a with
  | host => exact h.of_hostStep hstep
  | kse => rw [agentStep_kse] at hstep; cases hstep; exact h.kseTurn
  | lane d => rw [agentStep_lane] at hstep; cases hstep; exact h.updateLane_turn d

/-- Settles O43: the step is an agent's turn after the turn is used up, or none. -/
theorem stepKeepsTheInvariants : Obligations.StepKeepsTheInvariants := by
  intro s t h hstep
  rcases step_eq_next hstep with ⟨a, -, -, ha⟩ | ⟨-, -, rfl⟩
  · exact h.tick.of_agentStep ha
  · exact h

/-! ## Progress -/

/-- Under the invariants an agent always answers: no read position is past the last byte. -/
theorem State.Inv.agentStep_answers {s : State} (h : s.Inv) (a : Agent) : ∃ t, agentStep a s = .next t := by
  cases a with
  | kse => exact ⟨_, agentStep_kse s⟩
  | lane d => exact ⟨_, agentStep_lane s d⟩
  | host =>
    rcases hostStep_cases s with hnext | ⟨w, acts, i, -, -, hd, hexec⟩
    · exact hnext
    · obtain ⟨t, ht⟩ := exec_command_answers (s := s.setHost acts) (isCommand_of_decode hd) fun d l _ hl _ => by
        have hrd := (h.lane l (mem_of_lane? (s := s) hl)).rd.2
        omega
      exact ⟨t, hexec.trans ht⟩

/-- Every lane of a legal core is an agent. -/
theorem State.Inv.lane_mem_agents {s : State} (h : s.Inv) {l : Lane} (hl : l ∈ s.lanes) :
    ∃ d, s.lane? d = some l ∧ Agent.lane d ∈ s.agents := by
  obtain ⟨e, he, rfl⟩ := List.mem_iff_getElem.mp hl
  have hlegal : s.nDp ≤ 256 := (of_decide_eq_true h.legal).2
  have hlen : s.nDp = s.lanes.length := rfl
  have htoNat : (BitVec.ofNat 8 e).toNat = e := by
    rw [BitVec.toNat_ofNat]
    exact Nat.mod_eq_of_lt (by omega)
  refine ⟨BitVec.ofNat 8 e, ?_, ?_⟩
  · rw [lane?_eq_some_iff, htoNat]
    exact List.getElem?_eq_getElem he
  · simp only [State.agents, List.mem_cons, List.mem_map, List.mem_range]
    exact .inr (.inr ⟨e, he, rfl⟩)

/-- A busy unit of an invariant state is an enabled agent. -/
theorem State.Inv.enabled_of_unitBusy {s : State} (h : s.Inv) (hb : s.unitBusy = true) :
    ∃ a ∈ s.agents, enabled a s = true := by
  rw [State.unitBusy, Bool.or_eq_true] at hb
  rcases hb with hk | hl
  · obtain ⟨-, -, hreach, -⟩ := h.key.busy hk
    exact ⟨.kse, by simp [State.agents], (kseNext_isSome_iff s).mpr ⟨hk, hreach⟩⟩
  · obtain ⟨l, hl, hb⟩ : ∃ l ∈ s.lanes, l.dbusy = true := by
      simpa [State.lanesIdle] using hl
    obtain ⟨-, -, -, hreach⟩ := (h.lane l hl).busy hb
    obtain ⟨d, hd, hmem⟩ := h.lane_mem_agents hl
    exact ⟨.lane d, hmem, (laneNext_isSome_iff s d).mpr ⟨l, hd, hb, hreach⟩⟩

/-- Settles O44: the agent chosen answers, and where none is chosen no unit is busy. -/
theorem invariantStatesNeverStop : Obligations.InvariantStatesNeverStop := by
  intro s h
  cases ha : chooseAgent s with
  | some a =>
    rw [step_of_chooseAgent_some ha]
    exact h.tick.agentStep_answers a
  | none =>
    rw [step_of_chooseAgent_none ha]
    cases hb : s.unitBusy with
    | false => exact ⟨s, rfl⟩
    | true =>
      obtain ⟨a, hmem, hen⟩ := h.enabled_of_unitBusy hb
      simp [not_enabled_of_chooseAgent_none ha a hmem] at hen

/-! ## What a step leaves alone -/

/-- No agent's turn changes the configuration. -/
theorem agentStep_config {s t : State} {a : Agent} (h : agentStep a s = .next t) :
    t.roms = s.roms ∧ t.lanes.length = s.lanes.length := by
  cases a with
  | kse => rw [agentStep_kse] at h; cases h; simp
  | lane d => rw [agentStep_lane] at h; cases h; simp
  | host =>
    rcases hostStep_eq_next h with ⟨-, rfl⟩ | ⟨rest, -, rfl⟩ | ⟨w, rest, -, -, rfl⟩ | ⟨w, rest, -, -, -, rfl⟩ |
      ⟨w, rest, why, -, -, rfl⟩ | ⟨w, rest, i, -, -, -, he⟩
    · exact ⟨rfl, rfl⟩
    · exact ⟨rfl, List.length_replicate⟩
    · exact ⟨rfl, List.length_replicate⟩
    · exact ⟨rfl, rfl⟩
    · exact ⟨rfl, rfl⟩
    · obtain ⟨hroms, hlen, -⟩ := exec_frame he
      exact ⟨hroms, hlen⟩

/-- Settles O45. -/
theorem configurationNeverChanges : Obligations.ConfigurationNeverChanges := by
  intro s t h
  rcases step_eq_next h with ⟨a, -, -, ha⟩ | ⟨-, -, rfl⟩
  · exact agentStep_config (s := s.tick) ha
  · exact ⟨rfl, rfl⟩

/-- The hold of the key-side commands, in Bool (R292). -/
theorem keySide_held_of_unitBusy {s : State} (hbusy : s.unitBusy = true) : ¬ (!s.kbusy && s.lanesIdle) = true := by
  rw [State.unitBusy, Bool.or_eq_true] at hbusy
  rcases hbusy with h | h
  · simp [h]
  · rw [Bool.not_eq_true'] at h
    simp [h]

/-- While any unit is busy the hold keeps every command off the key side. -/
theorem exec_command_of_unitBusy {s t : State} {i : Instr} (hc : isCommand i = true) (h : exec i s = .next t)
    (hbusy : s.unitBusy = true) : t = { s with lanes := t.lanes, responses := t.responses } := by
  have hheld := keySide_held_of_unitBusy hbusy
  cases exec_command_next hc h with
  | held => rfl
  | failed => rfl
  | done _ hr hs =>
    cases hs with
    | nop => rfl
    | kstat => rfl
    | dstat => rfl
    | keyclr => exact absurd hr hheld
    | keypush b => exact absurd hr hheld
    | expand => exact absurd hr hheld
    | dinclr => rfl
    | dinpush => rfl
    | encrypt => rfl
    | doutpop => rfl

/-- Short of a reset, the host's turn leaves the key side alone while any unit is busy, and takes from its actions. -/
theorem hostStep_of_unitBusy {s t : State} (h : hostStep s = .next t) (hbusy : s.unitBusy = true)
    (hacts : ∀ a ∈ s.hostActions, a.isCommand = true) :
    t = { s with lanes := t.lanes, responses := t.responses, hostActions := t.hostActions } ∧
      ∀ a ∈ t.hostActions, a.isCommand = true := by
  have hrest {w : Word} {rest : List HostAction} (ha : s.hostActions = .command w :: rest) :
      ∀ a ∈ rest, a.isCommand = true := fun a hmem => hacts a (by rw [ha]; exact List.mem_cons_of_mem _ hmem)
  rcases hostStep_eq_next h with ⟨-, rfl⟩ | ⟨rest, ha, -⟩ | ⟨w, rest, ha, -, -⟩ | ⟨w, rest, -, -, -, rfl⟩ |
    ⟨w, rest, why, ha, -, rfl⟩ | ⟨w, rest, i, ha, -, hd, he⟩
  · exact ⟨rfl, hacts⟩
  · exact absurd (hacts .reset (by simp [ha])) (by decide)
  · exact absurd (hacts .reset (by simp [ha])) (by decide)
  · exact ⟨rfl, hacts⟩
  · exact ⟨rfl, hrest ha⟩
  · have ht := exec_command_of_unitBusy (isCommand_of_decode hd) he hbusy
    rw [ht]
    exact ⟨rfl, hrest ha⟩

/-- A busy lane's transform needs a valid schedule and an idle engine (R51 (d)). -/
theorem State.Inv.unitBusy_of_lane {s : State} (h : s.Inv) {l : Lane} (hl : l ∈ s.lanes) (hb : l.dbusy = true) :
    s.unitBusy = true ∧ s.kvalid = true ∧ s.kbusy = false := by
  obtain ⟨hv, hk, -, -⟩ := (h.lane l hl).busy hb
  refine ⟨?_, hv, hk⟩
  rw [State.unitBusy, Bool.or_eq_true, Bool.not_eq_true', ← Bool.not_eq_true, lanesIdle_iff]
  exact .inr fun hidle => by simp [hidle l hl] at hb

/-- Settles O46: the engine is idle, a lane's turn does not write the key side, and the hold keeps commands off it. -/
theorem scheduleConstantWhileALaneIsBusy : Obligations.ScheduleConstantWhileALaneIsBusy := by
  rintro s t h ⟨l, hl, hb⟩ hacts hstep
  obtain ⟨hbusy, hv, hk⟩ := h.unitBusy_of_lane hl hb
  rcases step_eq_next hstep with ⟨a, -, -, ha⟩ | ⟨-, -, rfl⟩
  · cases a with
    | kse =>
      rw [agentStep_kse, kseTurn_of_idle (s := s.tick) hk] at ha
      cases ha
      exact ⟨rfl, rfl, hv⟩
    | lane d => rw [agentStep_lane] at ha; cases ha; exact ⟨rfl, rfl, hv⟩
    | host =>
      obtain ⟨ht, -⟩ := hostStep_of_unitBusy (s := s.tick) ha hbusy hacts
      rw [ht]
      exact ⟨rfl, rfl, hv⟩
  · exact ⟨rfl, rfl, hv⟩

/-! ## A corrupt core -/

/-- With FATAL = 1 no command changes the core: it fails, or it only reports (R273, R283). -/
theorem exec_command_of_fatal {s t : State} {i : Instr} (hc : isCommand i = true) (h : exec i s = .next t)
    (hf : s.fatal = true) : t = { s with responses := t.responses } := by
  cases exec_command_next hc h with
  | held => rfl
  | failed => rfl
  | done hf' _ hs =>
    cases hs with
    | nop => rfl
    | kstat => rfl
    | dstat => rfl
    | keyclr | keypush | expand | dinclr | dinpush | encrypt | doutpop => exact absurd (hf' rfl) (by simp [hf])

/-- The reset of a corrupt core finds every item at its reset value already. -/
theorem State.Inv.hardwareReset_of_fatal {s : State} (h : s.Inv) (hf : s.fatal = true) : s.hardwareReset = s := by
  obtain ⟨hkeybuf, hkeycnt, hw, hkvalid, hkbusy, htemp, hkpc, hlanes⟩ := h.corrupt hf
  have hlanes' : s.lanes = List.replicate s.nDp Lane.reset := List.eq_replicate_iff.mpr ⟨rfl, hlanes⟩
  have hfatal : s.fatal = !tablesOk s.roms := h.fatal
  cases s
  rw [State.hardwareReset, State.resetWith, State.mk.injEq]
  exact ⟨rfl, hlanes'.symm, hkeybuf.symm, hkeycnt.symm, hw.symm, hkvalid.symm, hkbusy.symm, hfatal.symm, htemp.symm,
    hkpc.symm, rfl, rfl, rfl, rfl⟩

/-- Settles O41: no unit is busy, the host's commands fail or report, and a reset changes nothing. -/
theorem corruptCoreStaysAtReset : Obligations.CorruptCoreStaysAtReset := by
  intro s t h hf hstep
  have hframe : t = { s with
      hostActions := t.hostActions, responses := t.responses, schedule := t.schedule, stepCount := t.stepCount } := by
    rcases step_eq_next hstep with ⟨a, -, -, ha⟩ | ⟨-, -, rfl⟩
    · cases a with
      | kse =>
        rw [agentStep_kse, kseTurn_of_idle (s := s.tick) (h.corrupt hf).kbusy] at ha
        cases ha; rfl
      | lane d =>
        rw [agentStep_lane] at ha
        cases ha
        cases hl : s.tick.lane? d with
        | none => rw [updateLane_of_none _ hl]; rfl
        | some l =>
          have hreset : l = Lane.reset := (h.corrupt hf).lanes l (mem_of_lane? hl)
          rw [updateLane_of_some _ hl, Lane.turn_of_idle _ _ (by rw [hreset]; rfl), setLane_of_lane? hl]
          rfl
      | host =>
        rcases hostStep_eq_next ha with ⟨-, rfl⟩ | ⟨rest, -, rfl⟩ | ⟨w, rest, -, -, rfl⟩ | ⟨w, rest, -, -, -, rfl⟩ |
          ⟨w, rest, why, -, -, rfl⟩ | ⟨w, rest, i, -, -, hd, he⟩
        · rfl
        · rw [(h.tick.setHost rest).hardwareReset_of_fatal hf]; rfl
        · rw [(h.tick.setHost rest).hardwareReset_of_fatal hf]; rfl
        · rfl
        · rfl
        · rw [exec_command_of_fatal (isCommand_of_decode hd) he hf]; rfl
    · rfl
  have hf' : t.fatal = true := by rw [hframe]; exact hf
  exact ⟨hf', (stepKeepsTheInvariants s t h hstep).corrupt hf', hframe⟩

end Sys2Proof.Machine
end

section
/-! # The product in GF(2^8) and the S-box (spec/40_gf_arithmetic.md R142, spec/20_memory.md R69)

`gmul` is additive in each argument, and an additive map of bytes is known by its values on the eight bits. -/

namespace Sys2Proof.Machine

/-- A conditional addition is the addition of a conditional summand. -/
theorem ite_xor_eq (c : Bool) (p a : Byte) : (if c then p ^^^ a else p) = p ^^^ (if c then a else 0#8) := by
  cases c <;> simp

theorem ite_xor_cond (b c : Bool) (a : Byte) :
    (if b ^^ c then a else 0#8) = (if b then a else 0#8) ^^^ (if c then a else 0#8) := by
  cases b <;> cases c <;> simp

theorem ite_xor_branch (c : Bool) (a b : Byte) :
    (if c then a ^^^ b else 0#8) = (if c then a else 0#8) ^^^ (if c then b else 0#8) := by
  cases c <;> simp

theorem xtime_eq (a : Byte) : xtime a = (a <<< 1) ^^^ (if a.msb then 0x1B#8 else 0#8) := ite_xor_eq _ _ _

theorem xtime_xor (a b : Byte) : xtime (a ^^^ b) = xtime a ^^^ xtime b := by
  simp only [xtime_eq]
  rw [BitVec.msb_xor, BitVec.shiftLeft_xor_distrib, ite_xor_cond]
  ac_rfl

/-- The loop is additive in its accumulator and multiplier together. -/
theorem gmulLoop_xor_right (n : Nat) (p q a b c : Byte) :
    gmulLoop n (p ^^^ q) a (b ^^^ c) = gmulLoop n p a b ^^^ gmulLoop n q a c := by
  induction n generalizing p q a b c with
  | zero => rfl
  | succ n ih =>
    simp only [gmulLoop, ite_xor_eq]
    rw [← ih, BitVec.ushiftRight_xor_distrib, BitVec.getLsbD_xor, ite_xor_cond]
    congr 1
    ac_rfl

/-- The loop is additive in its accumulator and multiplicand together. -/
theorem gmulLoop_xor_left (n : Nat) (p q a b c : Byte) :
    gmulLoop n (p ^^^ q) (a ^^^ b) c = gmulLoop n p a c ^^^ gmulLoop n q b c := by
  induction n generalizing p q a b c with
  | zero => rfl
  | succ n ih =>
    simp only [gmulLoop, ite_xor_eq]
    rw [← ih, xtime_xor, ite_xor_branch]
    congr 1
    ac_rfl

theorem gmul_xor_right (a b c : Byte) : gmul a (b ^^^ c) = gmul a b ^^^ gmul a c := gmulLoop_xor_right 8 0#8 0#8 a b c

theorem gmul_xor_left (a b c : Byte) : gmul (a ^^^ b) c = gmul a c ^^^ gmul b c := gmulLoop_xor_left 8 0#8 0#8 a b c

/-- Additive maps of bytes that agree on the eight bits are equal: a byte is the sum of its bits. -/
theorem additive_ext {f g : Byte → Byte} (hf : ∀ a b, f (a ^^^ b) = f a ^^^ f b) (hg : ∀ a b, g (a ^^^ b) = g a ^^^ g b)
    (h : ∀ i < 8, f (1#8 <<< i) = g (1#8 <<< i)) (a : Byte) : f a = g a := by
  have hzero {k : Byte → Byte} (hk : ∀ a b, k (a ^^^ b) = k a ^^^ k b) : k 0#8 = 0#8 := by
    have h00 := hk 0#8 0#8
    rwa [BitVec.xor_self, BitVec.xor_self] at h00
  have hbit (i : Nat) (hi : i < 8) (c : Bool) :
      f (if c then 1#8 <<< i else 0#8) = g (if c then 1#8 <<< i else 0#8) := by
    cases c with
    | true => exact h i hi
    | false => exact (hzero hf).trans (hzero hg).symm
  have hsum : ∀ a : Byte, a = (if a.getLsbD 0 then 1#8 <<< 0 else 0#8) ^^^ (if a.getLsbD 1 then 1#8 <<< 1 else 0#8) ^^^
      (if a.getLsbD 2 then 1#8 <<< 2 else 0#8) ^^^ (if a.getLsbD 3 then 1#8 <<< 3 else 0#8) ^^^
      (if a.getLsbD 4 then 1#8 <<< 4 else 0#8) ^^^ (if a.getLsbD 5 then 1#8 <<< 5 else 0#8) ^^^
      (if a.getLsbD 6 then 1#8 <<< 6 else 0#8) ^^^ (if a.getLsbD 7 then 1#8 <<< 7 else 0#8) := by decide
  rw [hsum a]
  simp only [hf, hg]
  rw [hbit 0 (by decide), hbit 1 (by decide), hbit 2 (by decide), hbit 3 (by decide), hbit 4 (by decide),
    hbit 5 (by decide), hbit 6 (by decide), hbit 7 (by decide)]

theorem gmul_comm (a b : Byte) : gmul a b = gmul b a := by
  have hbits : ∀ i < 8, ∀ j < 8, gmul (1#8 <<< i) (1#8 <<< j) = gmul (1#8 <<< j) (1#8 <<< i) := by decide
  refine additive_ext (f := fun b => gmul a b) (g := fun b => gmul b a) (gmul_xor_right a)
    (fun b c => gmul_xor_left b c a) (fun j hj => ?_) b
  exact additive_ext (f := fun a => gmul a (1#8 <<< j)) (g := fun a => gmul (1#8 <<< j) a)
    (fun b c => gmul_xor_left b c _) (gmul_xor_right _) (fun i hi => hbits i hi j hj) a

/-- Settles O48: the products by 0 to 3 are one or two turns of the loop, and the rest is additivity. -/
theorem gmulLaws : Obligations.GmulLaws := by
  intro a b c
  have h0 : gmul a 0x00#8 = 0x00#8 := by simp [gmul, gmulLoop]
  have h1 : gmul a 0x01#8 = a := by simp [gmul, gmulLoop]
  have h2 : gmul a 0x02#8 = xtime a := by simp [gmul, gmulLoop]
  have h3 : gmul a 0x03#8 = xtime a ^^^ a := by
    rw [show 0x03#8 = 0x02#8 ^^^ 0x01#8 from rfl, gmul_xor_right, h2, h1]
  exact ⟨h0, h1, h2, h3, gmul_comm a b, gmul_xor_right a b c⟩

/-- The inverse of the map `sboxAffine`: it undoes the rotations of R69. -/
def affineInverse (x : Byte) : Byte := rotl8 x 1 ^^^ rotl8 x 3 ^^^ rotl8 x 6 ^^^ 0x05#8

theorem sboxAffine_affineInverse : ∀ x : Byte, sboxAffine (affineInverse x) = x := by decide

/-- Undoing the affine map on an entry of the table of R66 gives the inverse of the entry's index. -/
theorem isInverse_affineInverse_sbox : ∀ a : Byte, IsInverse a (affineInverse (fixedRoms.sboxAt a)) := by decide

/-- Settles O49: the byte is the entry with the affine map undone. -/
theorem sboxIsTheInverseConstruction : Obligations.SboxIsTheInverseConstruction := fun a =>
  ⟨affineInverse (fixedRoms.sboxAt a), isInverse_affineInverse_sbox a, (sboxAffine_affineInverse _).symm⟩

end Sys2Proof.Machine
end

section
/-! # The engine's run (spec/41_key_expansion.md section 4, R178; spec/60_exceptions.md R293)

The engine has `Kpc.left` turns to go. Each of its turns takes one off, no other agent's turn does while it is busy, and
the last one ends the expansion; what the schedule then holds is the invariant's. -/

namespace Sys2Proof.Machine

/-- The turns the engine has to go at a sequencer value: two for each word, three more at every fourth (R31). -/
def Kpc.left (k : Kpc) : Nat :=
  2 * (43 - k.kidx.toNat) + 3 * (10 - k.kidx.toNat / 4) +
    if k.kidx.toNat % 4 = 0 then 5 - k.kph.toNat else if k.kph = 0#3 then 2 else 1

theorem Kpc.left_begin : (⟨4#6, 0#3⟩ : Kpc).left = 110 := by decide

theorem kpc_left_bounds {k : Kpc} (h : k.reachable = true) : 1 ≤ k.left ∧ k.left ≤ 110 := by
  obtain ⟨r, ph⟩ := k
  have hph : ph.toNat ≤ 4 ∧ 4 ≤ r.toNat ∧ r.toNat ≤ 43 := by
    rcases (kpc_reachable_iff r ph).mp h with ⟨rfl, hr⟩ | ⟨rfl, hr⟩ | ⟨rfl, hr⟩ | ⟨rfl, hr⟩ | ⟨rfl, hr⟩
    · exact ⟨by decide, (kidxLegal_iff r).mp hr⟩
    · have hr' := (kidxRoundLegal_iff r).mp hr
      exact ⟨by decide, by omega, by omega⟩
    · have hr' := (kidxRoundLegal_iff r).mp hr
      exact ⟨by decide, by omega, by omega⟩
    · have hr' := (kidxRoundLegal_iff r).mp hr
      exact ⟨by decide, by omega, by omega⟩
    · exact ⟨by decide, (kidxLegal_iff r).mp hr⟩
  simp only [Kpc.left]
  split_ifs <;> omega

/-- The engine's next turn is its last, or it takes one off. -/
theorem kseMicro_left {s : State} {i : Instr} (hsel : kseNext s = some i) :
    (s.kpc.left = 1 ∧ s.kseMicro.kbusy = false ∧ s.kseMicro.kvalid = true) ∨
    (s.kseMicro.kbusy = true ∧ s.kseMicro.kpc.left + 1 = s.kpc.left) := by
  obtain ⟨hb, hphase⟩ := kseNext_at hsel
  rcases hphase with ⟨r, hk, hr, -⟩ | ⟨r, hk, hr, -⟩ | ⟨r, hk, hr, -⟩ | ⟨r, hk, hr, -⟩ | ⟨r, hk, hr, -⟩
  · refine .inr ?_
    rw [State.kseMicro, hk]
    refine ⟨hb, ?_⟩
    simp only [State.setTemp_kpc, if_true, nextKpc_kld]
    by_cases h4 : r.toNat % 4 = 0 <;> simp [h4, Kpc.left]
  · have hmod := ((kidxRoundLegal_iff r).mp hr).2.2
    rw [State.kseMicro, hk]
    exact .inr ⟨hb, by simp [hmod, Kpc.left]⟩
  · have hmod := ((kidxRoundLegal_iff r).mp hr).2.2
    rw [State.kseMicro, hk]
    exact .inr ⟨hb, by simp [hmod, Kpc.left]⟩
  · have hmod := ((kidxRoundLegal_iff r).mp hr).2.2
    rw [State.kseMicro, hk]
    exact .inr ⟨hb, by simp [hmod, Kpc.left]⟩
  · have hr' := (kidxLegal_iff r).mp hr
    by_cases hlast : r.toNat < 43
    · have hnext := kidx_succ_toNat r hlast
      refine .inr ?_
      rw [State.kseMicro, hk]
      simp only [hlast]
      refine ⟨hb, ?_⟩
      simp [Kpc.left, hnext]
      split_ifs <;> omega
    · obtain rfl : r = 43#6 := by bv_omega
      rw [State.kseMicro, hk]
      exact .inl ⟨by decide, rfl, rfl⟩

theorem State.Inv.kseTurn_left {s : State} (h : s.Inv) (hb : s.kbusy = true) :
    (s.kpc.left = 1 ∧ s.kseTurn.kbusy = false ∧ s.kseTurn.kvalid = true) ∨
    (s.kseTurn.kbusy = true ∧ s.kseTurn.kpc.left + 1 = s.kpc.left) := by
  obtain ⟨-, -, hreach, -⟩ := h.key.busy hb
  obtain ⟨i, hsel⟩ := Option.isSome_iff_exists.mp ((kseNext_isSome_iff s).mpr ⟨hb, hreach⟩)
  rw [kseTurn_of_kseNext hsel]
  exact kseMicro_left hsel

/-! ## The engine alone -/

theorem runAgents_replicate_kse (n : Nat) (s : State) :
    runAgents (List.replicate n .kse) s = .next (State.kseTurn^[n] s) := by
  induction n generalizing s with
  | zero => rfl
  | succ n ih => rw [List.replicate_succ, runAgents_cons_of_next (agentStep_kse s), ih, Function.iterate_succ_apply]

theorem kseTurn_iterate_of_idle {s : State} (hb : s.kbusy = false) (n : Nat) : State.kseTurn^[n] s = s :=
  Function.iterate_fixed (kseTurn_of_idle hb) n

theorem kseTurn_iterate_frame (n : Nat) (s : State) : State.kseTurn^[n] s = { s with
    w := (State.kseTurn^[n] s).w, temp := (State.kseTurn^[n] s).temp, kpc := (State.kseTurn^[n] s).kpc,
    kbusy := (State.kseTurn^[n] s).kbusy, kvalid := (State.kseTurn^[n] s).kvalid } := by
  induction n generalizing s with
  | zero => rfl
  | succ n ih =>
    rw [Function.iterate_succ_apply, ih]
    rw [kseTurn_frame]

/-- As many turns as are left end the expansion, with a valid schedule. -/
theorem State.Inv.kseTurn_iterate_done {s : State} (h : s.Inv) (hb : s.kbusy = true) {n : Nat} (hn : s.kpc.left ≤ n) :
    (State.kseTurn^[n] s).kbusy = false ∧ (State.kseTurn^[n] s).kvalid = true := by
  induction n generalizing s with
  | zero =>
    obtain ⟨-, -, hreach, -⟩ := h.key.busy hb
    have hpos := (kpc_left_bounds hreach).1
    omega
  | succ n ih =>
    rw [Function.iterate_succ_apply]
    rcases h.kseTurn_left hb with ⟨-, hidle, hv⟩ | ⟨hb', hleft⟩
    · rw [kseTurn_iterate_of_idle hidle]
      exact ⟨hidle, hv⟩
    · exact ih h.kseTurn hb' (by omega)

/-- R293 for the engine. -/
theorem State.Inv.engine_finishes {s : State} (h : s.Inv) (hb : s.kbusy = true) :
    ∃ n t, n ≤ 110 ∧ runAgents (List.replicate n .kse) s = .next t ∧ t.kbusy = false := by
  obtain ⟨-, -, hreach, -⟩ := h.key.busy hb
  exact ⟨s.kpc.left, _, (kpc_left_bounds hreach).2, runAgents_replicate_kse _ _, (h.kseTurn_iterate_done hb le_rfl).1⟩

/-! ## The engine among the other agents -/

/-- While a unit is busy, the turn of any agent but the engine leaves the key side alone, short of a reset. -/
theorem agentStep_of_unitBusy {s t : State} {a : Agent} (h : agentStep a s = .next t) (ha : a ≠ .kse)
    (hbusy : s.unitBusy = true) (hacts : ∀ x ∈ s.hostActions, x.isCommand = true) :
    t = { s with lanes := t.lanes, responses := t.responses, hostActions := t.hostActions } ∧
      ∀ x ∈ t.hostActions, x.isCommand = true := by
  cases a with
  | kse => exact absurd rfl ha
  | host => exact hostStep_of_unitBusy h hbusy hacts
  | lane d => rw [agentStep_lane] at h; cases h; exact ⟨rfl, hacts⟩

/-- An expansion under way: the engine is busy with `n` turns to go on the key of `s₀`, and no reset is to come. -/
structure Expanding (s₀ : State) (n : Nat) (s : State) : Prop where
  inv : s.Inv
  busy : s.kbusy = true
  left : s.kpc.left = n
  roms : s.roms = s₀.roms
  keybuf : s.keybuf = s₀.keybuf
  keycnt : s.keycnt = s₀.keycnt
  acts : ∀ a ∈ s.hostActions, a.isCommand = true

theorem State.unitBusy_of_kbusy {s : State} (hb : s.kbusy = true) : s.unitBusy = true := by
  rw [State.unitBusy, hb, Bool.true_or]

theorem Expanding.other_turn {s₀ s t : State} {n : Nat} {a : Agent} (h : Expanding s₀ n s) (ha : a ≠ .kse)
    (hstep : agentStep a s = .next t) : Expanding s₀ n t := by
  obtain ⟨hframe, hacts⟩ := agentStep_of_unitBusy hstep ha (State.unitBusy_of_kbusy h.busy) h.acts
  have hinv := h.inv.of_agentStep hstep
  rw [hframe] at hinv ⊢
  exact ⟨hinv, h.busy, h.left, h.roms, h.keybuf, h.keycnt, hacts⟩

theorem Expanding.kse_turn {s₀ s : State} {n : Nat} (h : Expanding s₀ (n + 1) s) (hn : n ≠ 0) :
    Expanding s₀ n s.kseTurn := by
  rcases h.inv.kseTurn_left h.busy with ⟨hone, -⟩ | ⟨hb, hleft⟩
  · have hleft := h.left
    omega
  · have hleft' := h.left
    exact ⟨h.inv.kseTurn, hb, by omega, (State.kseTurn_roms s).trans h.roms, (State.kseTurn_keybuf s).trans h.keybuf,
      (State.kseTurn_keycnt s).trans h.keycnt, by rw [State.kseTurn_hostActions]; exact h.acts⟩

/-- Turns in any order, fewer of the engine than it has to go, leave the expansion under way. -/
theorem Expanding.run {s₀ s : State} {n : Nat} {turns : List Agent} (h : Expanding s₀ (turns.count .kse + n) s)
    (hn : n ≠ 0) : ∃ t, runAgents turns s = .next t ∧ Expanding s₀ n t := by
  induction turns generalizing s with
  | nil => exact ⟨s, rfl, by simpa using h⟩
  | cons a turns ih =>
    by_cases ha : a = .kse
    · subst ha
      rw [List.count_cons_self, Nat.add_right_comm] at h
      rw [runAgents_cons_of_next (agentStep_kse s)]
      exact ih (h.kse_turn (by omega))
    · rw [List.count_cons_of_ne ha] at h
      obtain ⟨t, ht⟩ := h.inv.agentStep_answers a
      rw [runAgents_cons_of_next ht]
      exact ih (h.other_turn ha ht)

/-- Settles O50: EXPAND starts an expansion with 110 turns to go, 109 of them leave it under way, and the last one ends
it; the invariant of the state it leaves says what W, TEMP and KPC are. -/
theorem expansionComputesTheSchedule : Obligations.ExpansionComputesTheSchedule := by
  intro s₀ s turns h₀ hf hk hidle hc hexec hacts hcount
  have hgate := exec_expand_eq_gate s₀
  rw [keySideGate_of_idle _ hf hk hidle, if_neg (not_not_intro hc), hexec] at hgate
  cases hgate
  have hstart : Expanding s₀ (turns.count .kse + 1) (s₀.beginExpansion.answer (responseWord .ok 0#24)) := by
    rw [hcount]
    exact ⟨h₀.exec_command rfl hexec, by simp, by simpa using Kpc.left_begin, by simp, by simp, by simp, hacts⟩
  obtain ⟨t, hrun, ht⟩ := hstart.run (by decide)
  rcases ht.inv.kseTurn_left ht.busy with ⟨-, hbusy, hvalid⟩ | ⟨hbusy, hleft⟩
  · have hinv := ht.inv.kseTurn
    obtain ⟨-, -, hw⟩ := hinv.key.valid hvalid
    obtain ⟨hkpc, htemp⟩ := hinv.key.idle hbusy
    rw [State.kseTurn_roms, State.kseTurn_keybuf, ht.roms, ht.keybuf] at hw
    refine ⟨t.kseTurn, ?_, hbusy, hvalid, hw, htemp, hkpc, (State.kseTurn_keybuf t).trans ht.keybuf,
      (State.kseTurn_keycnt t).trans ht.keycnt⟩
    rw [runAgents_append_of_next hrun, runAgents_cons_of_next (agentStep_kse t)]
    rfl
  · obtain ⟨-, -, hreach, -⟩ := ht.inv.kseTurn.key.busy hbusy
    have hpos := (kpc_left_bounds hreach).1
    have hone := ht.left
    omega

/-! ## WAITK -/

/-- Bit 1 of the status word is KBUSY. -/
theorem pollEnds_keyStatus (s : State) : pollEnds (responseWord .ok (keyStatus s)) = !s.kbusy := by
  rw [pollEnds, getLsbD_responseWord _ _ (by decide), getLsbD_keyStatus]
  simp

/-- One poll of WAITK: the engine's turn, KSTAT, and the loop again while KBUSY = 1. -/
theorem waitk_succ (n : Nat) (s : State) : waitk (n + 1) s =
    if s.kseTurn.kbusy then waitk n (s.kseTurn.answer (responseWord .ok (keyStatus s.kseTurn)))
    else .next (s.kseTurn.answer (responseWord .ok (keyStatus s.kseTurn))) := by
  rw [waitk, runAgents_cons_of_next (agentStep_kse s), runAgents_nil]
  simp only [exec_kstat, State.answer_responses, List.getLast?_append, List.getLast?_singleton, Option.some_or,
    Option.getD_some, pollEnds_keyStatus]
  cases s.kseTurn.kbusy <;> rfl

/-- WAITK ends within as many polls as the engine has turns to go, and at the first poll of an idle engine. -/
theorem State.Inv.waitk_ends {s : State} (h : s.Inv) {n : Nat} (hn : s.kbusy = true → s.kpc.left ≤ n + 1) :
    ∃ t rsp, waitk (n + 1) s = .next t ∧ t.kbusy = false ∧ t.responses.getLast? = some rsp ∧
      pollEnds rsp = true := by
  induction n generalizing s with
  | zero =>
    have hidle : s.kseTurn.kbusy = false := by
      cases hb : s.kbusy with
      | false => rw [kseTurn_of_idle hb]; exact hb
      | true =>
        rcases h.kseTurn_left hb with ⟨-, hidle, -⟩ | ⟨hb', hleft⟩
        · exact hidle
        · obtain ⟨-, -, hreach, -⟩ := h.kseTurn.key.busy hb'
          have hpos := (kpc_left_bounds hreach).1
          have hone := hn hb
          omega
    rw [waitk_succ, hidle]
    exact ⟨_, _, rfl, hidle, List.getLast?_concat, by rw [pollEnds_keyStatus, hidle]; rfl⟩
  | succ n ih =>
    rw [waitk_succ]
    cases hb' : s.kseTurn.kbusy with
    | false => exact ⟨_, _, rfl, hb', List.getLast?_concat, by rw [pollEnds_keyStatus, hb']; rfl⟩
    | true =>
      refine ih (h.kseTurn.answer _) fun _ => ?_
      have hb : s.kbusy = true := by
        by_contra hb
        rw [kseTurn_of_idle (Bool.eq_false_iff.mpr hb)] at hb'
        exact hb hb'
      rcases h.kseTurn_left hb with ⟨-, hidle, -⟩ | ⟨-, hleft⟩
      · simp [hidle] at hb'
      · have hle := hn hb
        change s.kseTurn.kpc.left ≤ n + 1
        omega

end Sys2Proof.Machine
end

section
/-! # A lane's run (spec/42_block_transform.md section 4, R226; spec/60_exceptions.md R293)

As for the engine: a lane has `Dpc.left` turns to go. What it computes is no invariant of R51, so it is followed turn
by turn: `cipherBefore` is the State of R225 before each micro-operation. -/

namespace Sys2Proof.Machine

/-- The turns a lane has to go at a sequencer value: four for each round, and no MC in the last (R41). -/
def Dpc.left (p : Dpc) : Nat := if p.rnd.toNat = 10 ∧ p.ph = 3#2 then 1 else 43 - 4 * p.rnd.toNat - p.ph.toNat

theorem Dpc.left_begin : (⟨0#4, 3#2⟩ : Dpc).left = 40 := by decide

theorem dpc_left_bounds {p : Dpc} (h : p.reachable = true) : 1 ≤ p.left ∧ p.left ≤ 40 := by
  obtain ⟨n, ph⟩ := p
  rcases (dpc_reachable_iff n ph).mp h with ⟨rfl, hn⟩ | ⟨rfl, hn⟩ | ⟨rfl, hn⟩ | ⟨rfl, hn⟩
  · have hn' := (rndLegal_iff n).mp hn
    simp [Dpc.left]
    omega
  · have hn' := (rndLegal_iff n).mp hn
    simp [Dpc.left]
    omega
  · have hn' := (rndMixLegal_iff n).mp hn
    simp [Dpc.left]
    omega
  · have hn' := (rndKeyLegal_iff n).mp hn
    simp [Dpc.left]
    split_ifs <;> omega

/-- The State before the micro-operation at `k`, in the transform of `p` under the schedule `w` (R225). -/
def cipherBefore (r : Roms) (p : Block) (w : Schedule) (k : Dpc) : Block :=
  if k.ph = 0#2 then cipherRounds r p w (k.rnd.toNat - 1)
  else if k.ph = 1#2 then subBytes r (cipherRounds r p w (k.rnd.toNat - 1))
  else if k.ph = 2#2 then shiftRows (subBytes r (cipherRounds r p w (k.rnd.toNat - 1)))
  else if k.rnd.toNat = 0 then p
  else if k.rnd.toNat < 10 then mixColumns (shiftRows (subBytes r (cipherRounds r p w (k.rnd.toNat - 1))))
  else shiftRows (subBytes r (cipherRounds r p w 9))

/-- A busy lane at a value R41 reaches. -/
structure Lane.Running (l : Lane) : Prop where
  busy : l.dbusy = true
  reachable : l.dpc.reachable = true

/-- A running lane that is on its way from the block `p` to its cipher. -/
structure Lane.Ciphering (r : Roms) (w : Schedule) (p : Block) (l : Lane) : Prop extends l.Running where
  state : l.s = cipherBefore r p w l.dpc

section
variable (r : Roms) (p : Block) (w : Schedule)

theorem cipherBefore_sr (n : BitVec 4) : cipherBefore r p w ⟨n, 1#2⟩ = subBytes r (cipherBefore r p w ⟨n, 0#2⟩) := by
  simp [cipherBefore]

theorem cipherBefore_mc (n : BitVec 4) : cipherBefore r p w ⟨n, 2#2⟩ = shiftRows (cipherBefore r p w ⟨n, 1#2⟩) := by
  simp [cipherBefore]

theorem cipherBefore_ark {n : BitVec 4} (h1 : 1 ≤ n.toNat) (h9 : n.toNat ≤ 9) :
    cipherBefore r p w ⟨n, 3#2⟩ = mixColumns (cipherBefore r p w ⟨n, 2#2⟩) := by
  have h0 : n.toNat ≠ 0 := by omega
  have h10 : n.toNat < 10 := by omega
  simp [cipherBefore, h0, h10]

theorem cipherBefore_ark_last : cipherBefore r p w ⟨10#4, 3#2⟩ = shiftRows (cipherBefore r p w ⟨10#4, 1#2⟩) := by
  simp [cipherBefore]

theorem cipherBefore_sb {n : BitVec 4} (h : n.toNat < 10) :
    cipherBefore r p w ⟨n + 1#4, 0#2⟩ = addRoundKey (cipherBefore r p w ⟨n, 3#2⟩) w n.toNat := by
  have hnext := rnd_succ_toNat n h
  cases hn : n.toNat with
  | zero => simp [cipherBefore, hnext, hn, cipherRounds]
  | succ m =>
    rw [hn] at h
    simp [cipherBefore, hnext, hn, cipherRounds, h]

/-- The State before the last ARK gives the cipher. -/
theorem cipher_eq_addRoundKey : cipher r p w = addRoundKey (cipherBefore r p w ⟨10#4, 3#2⟩) w 10 := by
  simp [cipherBefore, cipher]

end

/-- A micro-operation but the last: the sequencer advances by one turn, and if the State was that of R225 it is so
after. -/
structure Lane.Advances (r : Roms) (w : Schedule) (l l' : Lane) : Prop where
  running : l'.Running
  left : l'.dpc.left + 1 = l.dpc.left
  state : ∀ p, l.s = cipherBefore r p w l.dpc → l'.s = cipherBefore r p w l'.dpc

/-- Every micro-operation but the last writes S and DPC. -/
theorem Lane.advances_setS {l : Lane} {r : Roms} {w : Schedule} {k k' : Dpc} {f : Block → Block} (hb : l.dbusy = true)
    (hk : l.dpc = k) (hreach : k'.reachable = true) (hleft : k'.left + 1 = k.left)
    (hstate : ∀ p, cipherBefore r p w k' = f (cipherBefore r p w k)) : l.Advances r w (l.setS (f l.s) k') where
  running := ⟨hb, hreach⟩
  left := by rw [hk]; exact hleft
  state := fun p hs => by rw [Lane.setS_s, Lane.setS_dpc, hs, hk, hstate]

theorem Lane.advances_sb {l : Lane} {n : BitVec 4} (hb : l.dbusy = true) (hk : l.dpc = ⟨n, 0#2⟩)
    (hn : rndLegal n = true) (r : Roms) (w : Schedule) : l.Advances r w (l.micro r w) := by
  have hmicro : l.micro r w = l.setS (subBytes r l.s) ⟨n, 1#2⟩ := by rw [Lane.micro, hk]; rfl
  have hn' := (rndLegal_iff n).mp hn
  rw [hmicro]
  refine Lane.advances_setS hb hk ((dpc_reachable_iff _ _).mpr (.inr (.inl ⟨rfl, hn⟩))) ?_
    fun p => cipherBefore_sr r p w n
  simp [Dpc.left]
  omega

theorem Lane.advances_sr {l : Lane} {n : BitVec 4} (hb : l.dbusy = true) (hk : l.dpc = ⟨n, 1#2⟩)
    (hn : rndLegal n = true) (r : Roms) (w : Schedule) : l.Advances r w (l.micro r w) := by
  have hmicro : l.micro r w = l.setS (shiftRows l.s) (nextDpc n 1#2) := by rw [Lane.micro, hk]; rfl
  have hn' := (rndLegal_iff n).mp hn
  rw [hmicro, nextDpc_sr]
  by_cases h9 : n.toNat ≤ 9
  · rw [if_pos h9]
    refine Lane.advances_setS hb hk ?_ ?_ fun p => cipherBefore_mc r p w n
    · rw [dpc_reachable_iff, rndMixLegal_iff]
      exact .inr (.inr (.inl ⟨rfl, hn'.1, h9⟩))
    · simp [Dpc.left]
      omega
  · obtain rfl : n = 10#4 := by bv_omega
    rw [if_neg h9]
    exact Lane.advances_setS hb hk (by decide) (by decide) fun p => cipherBefore_ark_last r p w

theorem Lane.advances_mc {l : Lane} {n : BitVec 4} (hb : l.dbusy = true) (hk : l.dpc = ⟨n, 2#2⟩)
    (hn : rndMixLegal n = true) (r : Roms) (w : Schedule) : l.Advances r w (l.micro r w) := by
  have hmicro : l.micro r w = l.setS (mixColumns l.s) ⟨n, 3#2⟩ := by rw [Lane.micro, hk]; rfl
  have hn' := (rndMixLegal_iff n).mp hn
  have h10 : n.toNat ≠ 10 := by omega
  rw [hmicro]
  refine Lane.advances_setS hb hk ?_ ?_ fun p => cipherBefore_ark r p w hn'.1 hn'.2
  · rw [dpc_reachable_iff, rndKeyLegal_iff]
    exact .inr (.inr (.inr ⟨rfl, by omega⟩))
  · simp [Dpc.left, h10]
    omega

theorem Lane.advances_ark {l : Lane} {n : BitVec 4} (hb : l.dbusy = true) (hk : l.dpc = ⟨n, 3#2⟩)
    (hn : n.toNat < 10) (r : Roms) (w : Schedule) : l.Advances r w (l.micro r w) := by
  have hmicro : l.micro r w = l.setS (addRoundKey l.s w n.toNat) ⟨n + 1#4, 0#2⟩ := by
    rw [Lane.micro, hk]; exact if_pos hn
  have hnext := rnd_succ_toNat n hn
  have h10 : n.toNat ≠ 10 := by omega
  rw [hmicro]
  refine Lane.advances_setS (f := fun s => addRoundKey s w n.toNat) hb hk ?_ ?_ fun p => cipherBefore_sb r p w hn
  · rw [dpc_reachable_iff, rndLegal_iff, hnext]
    exact .inl ⟨rfl, by omega⟩
  · simp [Dpc.left, hnext, h10]
    omega

/-- A running lane's turn ends the transform with the last round key added, or advances it. -/
theorem Lane.Running.turn {l : Lane} (h : l.Running) (r : Roms) (w : Schedule) :
    (l.dpc = ⟨10#4, 3#2⟩ ∧ l.turn r w = l.finish (addRoundKey l.s w 10)) ∨ l.Advances r w (l.turn r w) := by
  obtain ⟨hb, hreach⟩ := h
  rw [Lane.turn_of_enabled r w hb hreach]
  rcases hk : l.dpc with ⟨n, ph⟩
  rw [hk] at hreach
  rcases (dpc_reachable_iff n ph).mp hreach with ⟨rfl, hn⟩ | ⟨rfl, hn⟩ | ⟨rfl, hn⟩ | ⟨rfl, hn⟩
  · exact .inr (Lane.advances_sb hb hk hn r w)
  · exact .inr (Lane.advances_sr hb hk hn r w)
  · exact .inr (Lane.advances_mc hb hk hn r w)
  · by_cases hlast : n.toNat < 10
    · exact .inr (Lane.advances_ark hb hk hlast r w)
    · have hn' := (rndKeyLegal_iff n).mp hn
      obtain rfl : n = 10#4 := by bv_omega
      exact .inl ⟨rfl, by rw [Lane.micro, hk]; rfl⟩

/-- So the turn of a lane on its way to the cipher of `p` takes one turn off, or ends with the cipher. -/
theorem Lane.Ciphering.turn {l : Lane} {r : Roms} {w : Schedule} {p : Block} (h : l.Ciphering r w p) :
    (l.dpc.left = 1 ∧ l.turn r w = l.finish (cipher r p w)) ∨
    ((l.turn r w).Ciphering r w p ∧ (l.turn r w).dpc.left + 1 = l.dpc.left) := by
  rcases h.toRunning.turn r w with ⟨hk, hturn⟩ | hadv
  · refine .inl ⟨by rw [hk]; decide, ?_⟩
    rw [hturn, h.state, hk, cipher_eq_addRoundKey]
  · exact .inr ⟨⟨hadv.running, hadv.state p h.state⟩, hadv.left⟩

/-- ENCRYPT starts the lane on its way to the cipher of the block in its input buffer. -/
theorem Lane.ciphering_start (l : Lane) (r : Roms) (w : Schedule) : l.start.Ciphering r w l.din where
  busy := rfl
  reachable := by rw [Lane.start_dpc]; decide
  state := rfl

/-! ## The lane alone -/

theorem updateLane_updateLane (s : State) (d : LaneNo) (f g : Lane → Lane) :
    (s.updateLane d f).updateLane d g = s.updateLane d (g ∘ f) := by
  rw [State.updateLane, State.updateLane_lanes, List.modify_modify_eq]
  rfl

theorem runAgents_replicate_lane (n : Nat) (s : State) (d : LaneNo) :
    runAgents (List.replicate n (.lane d)) s = .next (s.updateLane d (Lane.turn s.roms s.w)^[n]) := by
  induction n generalizing s with
  | zero =>
    rw [State.updateLane, Function.iterate_zero, List.modify_id]
    rfl
  | succ n ih =>
    rw [List.replicate_succ, runAgents_cons_of_next (agentStep_lane s d), ih, updateLane_updateLane]
    rfl

theorem Lane.turn_iterate_of_idle {l : Lane} (hb : l.dbusy = false) (r : Roms) (w : Schedule) (n : Nat) :
    (Lane.turn r w)^[n] l = l := Function.iterate_fixed (Lane.turn_of_idle r w hb) n

/-- As many turns as are left leave the lane idle. -/
theorem Lane.Running.turn_iterate_idle {l : Lane} (h : l.Running) (r : Roms) (w : Schedule) {n : Nat}
    (hn : l.dpc.left ≤ n) : ((Lane.turn r w)^[n] l).dbusy = false := by
  induction n generalizing l with
  | zero =>
    have hpos := (dpc_left_bounds h.reachable).1
    omega
  | succ n ih =>
    rw [Function.iterate_succ_apply]
    rcases h.turn r w with ⟨-, hturn⟩ | hadv
    · rw [hturn, Lane.turn_iterate_of_idle rfl]
      rfl
    · have hleft := hadv.left
      exact ih hadv.running (by omega)

/-- As many turns as are left leave the cipher in DOUT, unread. -/
theorem Lane.Ciphering.turn_iterate_done {l : Lane} {r : Roms} {w : Schedule} {p : Block} (h : l.Ciphering r w p)
    {n : Nat} (hn : l.dpc.left ≤ n) : ((Lane.turn r w)^[n] l).doutvalid = true ∧
      ((Lane.turn r w)^[n] l).doutrd = 0#5 ∧ ((Lane.turn r w)^[n] l).dout = cipher r p w := by
  induction n generalizing l with
  | zero =>
    have hpos := (dpc_left_bounds h.reachable).1
    omega
  | succ n ih =>
    rw [Function.iterate_succ_apply]
    rcases h.turn with ⟨-, hturn⟩ | ⟨hnext, hleft⟩
    · rw [hturn, Lane.turn_iterate_of_idle rfl]
      exact ⟨rfl, rfl, rfl⟩
    · exact ih hnext (by omega)

/-- Under the invariants a busy lane is at a value R41 reaches. -/
theorem State.Inv.running {s : State} (h : s.Inv) {l : Lane} (hl : l ∈ s.lanes) (hb : l.dbusy = true) : l.Running :=
  ⟨hb, ((h.lane l hl).busy hb).2.2.2⟩

/-- R293 for a lane. -/
theorem State.Inv.lane_finishes {s : State} {d : LaneNo} {l : Lane} (h : s.Inv) (hl : s.lane? d = some l)
    (hb : l.dbusy = true) : ∃ n t l', n ≤ 40 ∧ runAgents (List.replicate n (.lane d)) s = .next t ∧
      t.lane? d = some l' ∧ l'.dbusy = false := by
  have hrun := h.running (mem_of_lane? hl) hb
  refine ⟨l.dpc.left, _, _, (dpc_left_bounds hrun.reachable).2, runAgents_replicate_lane _ _ _, ?_,
    hrun.turn_iterate_idle s.roms s.w le_rfl⟩
  rw [lane?_updateLane_self, hl]
  rfl

/-- Settles O53. -/
theorem busyUnitsFinish : Obligations.BusyUnitsFinish :=
  ⟨fun _ h hb => h.engine_finishes hb, fun _ _ _ h hl hb => h.lane_finishes hl hb⟩

/-! ## WAITD -/

/-- Bit 1 of the lane status word is DBUSY. -/
theorem pollEnds_laneStatus (s : State) (l : Lane) : pollEnds (responseWord .ok (laneStatus s l)) = !l.dbusy := by
  rw [pollEnds, getLsbD_responseWord _ _ (by decide), getLsbD_laneStatus]
  simp

theorem pollEnds_of_idle_lane (s : State) {l : Lane} (hb : l.dbusy = false) :
    pollEnds (responseWord .ok (laneStatus s l)) = true := by rw [pollEnds_laneStatus, hb]; rfl

/-- What one poll of WAITD leaves: the lane's turn taken and its status answered. -/
def State.polled (s : State) (d : LaneNo) (l : Lane) : State :=
  (s.setLane d (l.turn s.roms s.w)).answer
    (responseWord .ok (laneStatus (s.setLane d (l.turn s.roms s.w)) (l.turn s.roms s.w)))

theorem lane?_polled {s : State} {d : LaneNo} {l : Lane} (hl : s.lane? d = some l) :
    (s.polled d l).lane? d = some (l.turn s.roms s.w) := lane?_setLane_self _ hl

theorem State.Inv.polled {s : State} {d : LaneNo} {l : Lane} (h : s.Inv) (hl : s.lane? d = some l) :
    (s.polled d l).Inv := by
  have hturn := h.updateLane_turn d
  rw [updateLane_of_some _ hl] at hturn
  exact hturn.answer _

/-- One poll of WAITD, and the loop again while DBUSY[d] = 1. -/
theorem waitd_succ {s : State} {d : LaneNo} {l : Lane} (hl : s.lane? d = some l) (n : Nat) : waitd d (n + 1) s =
    if (l.turn s.roms s.w).dbusy then waitd d n (s.polled d l) else .next (s.polled d l) := by
  rw [waitd, runAgents_cons_of_next (agentStep_lane s d), runAgents_nil, updateLane_of_some _ hl]
  simp only [exec_dstat_of_lane (lane?_setLane_self (l.turn s.roms s.w) hl), State.answer_responses,
    List.getLast?_append, List.getLast?_singleton, Option.some_or, Option.getD_some, pollEnds_laneStatus]
  cases (l.turn s.roms s.w).dbusy <;> rfl

/-- WAITD ends within as many polls as the lane has turns to go, and at the first poll of an idle lane. -/
theorem State.Inv.waitd_ends {s : State} {d : LaneNo} {l : Lane} (h : s.Inv) (hl : s.lane? d = some l) {n : Nat}
    (hn : l.dbusy = true → l.dpc.left ≤ n + 1) :
    ∃ t l' rsp, waitd d (n + 1) s = .next t ∧ t.lane? d = some l' ∧ l'.dbusy = false ∧
      t.responses.getLast? = some rsp ∧ pollEnds rsp = true := by
  induction n generalizing s l with
  | zero =>
    have hidle : (l.turn s.roms s.w).dbusy = false := by
      cases hb : l.dbusy with
      | false => rw [Lane.turn_of_idle _ _ hb]; exact hb
      | true =>
        rcases (h.running (mem_of_lane? hl) hb).turn s.roms s.w with ⟨-, hturn⟩ | hadv
        · rw [hturn]; rfl
        · have hpos := (dpc_left_bounds hadv.running.reachable).1
          have hleft := hadv.left
          have hone := hn hb
          omega
    rw [waitd_succ hl, hidle]
    exact ⟨_, _, _, rfl, lane?_polled hl, hidle, List.getLast?_concat, pollEnds_of_idle_lane _ hidle⟩
  | succ n ih =>
    rw [waitd_succ hl]
    cases hb' : (l.turn s.roms s.w).dbusy with
    | false => exact ⟨_, _, _, rfl, lane?_polled hl, hb', List.getLast?_concat, pollEnds_of_idle_lane _ hb'⟩
    | true =>
      refine ih (h.polled hl) (lane?_polled hl) fun _ => ?_
      have hb : l.dbusy = true := by
        by_contra hb
        rw [Lane.turn_of_idle _ _ (Bool.eq_false_iff.mpr hb)] at hb'
        exact hb hb'
      rcases (h.running (mem_of_lane? hl) hb).turn s.roms s.w with ⟨-, hturn⟩ | hadv
      · rw [hturn] at hb'; cases hb'
      · have hleft := hadv.left
        have hle := hn hb
        omega

/-- Settles O57: the polls end with the unit's turns, of which there are at most 110 and 40. -/
theorem waitingPollsEnd : Obligations.WaitingPollsEnd := by
  refine ⟨fun s h => h.waitk_ends fun hb => ?_, fun s d h hd => ?_⟩
  · obtain ⟨-, -, hreach, -⟩ := h.key.busy hb
    exact (kpc_left_bounds hreach).2
  · have hl : s.lane? d = some s.lanes[d.toNat] := List.getElem?_eq_getElem hd
    exact h.waitd_ends hl fun hb => (dpc_left_bounds (h.running (mem_of_lane? hl) hb).reachable).2

/-! ## The lane among the other agents -/

/-- Short of a reset, the host's turn leaves a busy lane's State and sequencer alone. -/
theorem hostStep_of_busy_lane {s t : State} {d : LaneNo} {l : Lane} (h : hostStep s = .next t)
    (hl : s.lane? d = some l) (hb : l.dbusy = true) (hacts : ∀ a ∈ s.hostActions, a.isCommand = true) :
    ∃ l', t.lane? d = some l' ∧ l'.s = l.s ∧ l'.dbusy = l.dbusy ∧ l'.dpc = l.dpc := by
  have hsame {u : State} (hu : u.lanes = s.lanes) :
      ∃ l', u.lane? d = some l' ∧ l'.s = l.s ∧ l'.dbusy = l.dbusy ∧ l'.dpc = l.dpc :=
    ⟨l, by rw [State.lane?, hu]; exact hl, rfl, rfl, rfl⟩
  rcases hostStep_eq_next h with ⟨-, rfl⟩ | ⟨rest, ha, -⟩ | ⟨w, rest, ha, -, -⟩ | ⟨w, rest, -, -, -, rfl⟩ |
    ⟨w, rest, why, ha, -, rfl⟩ | ⟨w, rest, i, ha, -, hd, he⟩
  · exact hsame rfl
  · exact absurd (hacts .reset (by simp [ha])) (by decide)
  · exact absurd (hacts .reset (by simp [ha])) (by decide)
  · exact hsame rfl
  · exact hsame rfl
  · have hwrite {e : LaneNo} {m m' : Lane} (hm : s.lane? e = some m)
        (hkeep : e = d → m'.s = m.s ∧ m'.dbusy = m.dbusy ∧ m'.dpc = m.dpc) :
        ∃ l', ((s.setHost rest).setLane e m').lane? d = some l' ∧ l'.s = l.s ∧ l'.dbusy = l.dbusy ∧ l'.dpc = l.dpc := by
      by_cases hed : e = d
      · subst hed
        obtain rfl : m = l := Option.some_inj.mp (hm.symm.trans hl)
        exact ⟨m', lane?_setLane_self (s := s.setHost rest) m' hm, hkeep rfl⟩
      · exact ⟨l, (lane?_setLane_ne m' hed).trans hl, rfl, rfl, rfl⟩
    have hbusy {e : LaneNo} (hr : ∀ m, s.lanes[e.toNat]? = some m → m.dbusy = false) : e ≠ d := by
      rintro rfl
      simp [hr l hl] at hb
    cases exec_command_next (isCommand_of_decode hd) he with
    | held => exact hsame rfl
    | failed => exact hsame rfl
    | done _ hr hs =>
      cases hs with
      | nop => exact hsame rfl
      | kstat => exact hsame rfl
      | dstat => exact hsame rfl
      | keyclr => exact hsame rfl
      | keypush b => exact hsame rfl
      | expand => exact hsame (by simp)
      | dinclr hm => exact hwrite hm fun _ => ⟨rfl, rfl, rfl⟩
      | dinpush b hm => exact hwrite hm fun _ => ⟨rfl, rfl, rfl⟩
      | encrypt hm => exact hwrite hm fun hed => absurd hed (hbusy ((released_encrypt_iff _ _).mp hr).2)
      | doutpop hm => exact hwrite hm fun hed => absurd hed (hbusy ((laneIdle_eq_true_iff _ _).mp hr))

/-- A transform under way: lane `d` is on its way to the cipher of `p` under the schedule `w`, with `n` turns to go,
and no reset is to come. -/
structure Transforming (r : Roms) (w : Schedule) (p : Block) (d : LaneNo) (n : Nat) (s : State) : Prop where
  inv : s.Inv
  roms : s.roms = r
  schedule : s.w = w
  acts : ∀ a ∈ s.hostActions, a.isCommand = true
  lane : ∃ l, s.lane? d = some l ∧ l.Ciphering r w p ∧ l.dpc.left = n

theorem Transforming.other_turn {r : Roms} {w : Schedule} {p : Block} {d : LaneNo} {n : Nat} {s t : State} {a : Agent}
    (h : Transforming r w p d n s) (ha : a ≠ .lane d) (hstep : agentStep a s = .next t) :
    Transforming r w p d n t := by
  obtain ⟨l, hl, hcipher, hleft⟩ := h.lane
  obtain ⟨hbusy, -, hk⟩ := h.inv.unitBusy_of_lane (mem_of_lane? hl) hcipher.busy
  have hinv := h.inv.of_agentStep hstep
  cases a with
  | kse =>
    rw [agentStep_kse, kseTurn_of_idle hk] at hstep
    cases hstep
    exact h
  | lane e =>
    have hed : e ≠ d := fun hed => ha (congrArg Agent.lane hed)
    rw [agentStep_lane] at hstep
    cases hstep
    exact ⟨hinv, h.roms, h.schedule, h.acts, l, (lane?_updateLane_ne s _ hed).trans hl, hcipher, hleft⟩
  | host =>
    obtain ⟨hframe, hacts⟩ := hostStep_of_unitBusy hstep hbusy h.acts
    obtain ⟨l', hl', hs, hb, hdpc⟩ := hostStep_of_busy_lane hstep hl hcipher.busy h.acts
    have hroms : t.roms = s.roms := by rw [hframe]
    have hw : t.w = s.w := by rw [hframe]
    exact ⟨hinv, hroms.trans h.roms, hw.trans h.schedule, hacts, l', hl',
      ⟨⟨hb.trans hcipher.busy, by rw [hdpc]; exact hcipher.reachable⟩, by rw [hs, hdpc]; exact hcipher.state⟩,
      by rw [hdpc]; exact hleft⟩

theorem Transforming.lane_turn {r : Roms} {w : Schedule} {p : Block} {d : LaneNo} {n : Nat} {s : State}
    (h : Transforming r w p d (n + 1) s) (hn : n ≠ 0) :
    Transforming r w p d n (s.updateLane d (Lane.turn s.roms s.w)) := by
  obtain ⟨l, hl, hcipher, hleft⟩ := h.lane
  rcases hcipher.turn with ⟨hone, -⟩ | ⟨hnext, hleft'⟩
  · omega
  · refine ⟨h.inv.updateLane_turn d, h.roms, h.schedule, h.acts, l.turn r w, ?_, hnext, by omega⟩
    rw [lane?_updateLane_self, hl, h.roms, h.schedule]
    rfl

/-- Turns in any order, fewer of the lane than it has to go, leave the transform under way. -/
theorem Transforming.run {r : Roms} {w : Schedule} {p : Block} {d : LaneNo} {n : Nat} {s : State} {turns : List Agent}
    (h : Transforming r w p d (turns.count (.lane d) + n) s) (hn : n ≠ 0) :
    ∃ t, runAgents turns s = .next t ∧ Transforming r w p d n t := by
  induction turns generalizing s with
  | nil => exact ⟨s, rfl, by simpa using h⟩
  | cons a turns ih =>
    by_cases ha : a = .lane d
    · subst ha
      rw [List.count_cons_self, Nat.add_right_comm] at h
      rw [runAgents_cons_of_next (agentStep_lane s d)]
      exact ih (h.lane_turn (by omega))
    · rw [List.count_cons_of_ne ha] at h
      obtain ⟨t, ht⟩ := h.inv.agentStep_answers a
      rw [runAgents_cons_of_next ht]
      exact ih (h.other_turn ha ht)

/-- Settles O51: ENCRYPT starts a transform with 40 turns to go, 39 of them leave it under way, and the last one ends
it with the cipher; that the schedule is KeyExpansion of the key is the invariant. -/
theorem transformComputesTheCipher : Obligations.TransformComputesTheCipher := by
  intro s₀ s d l turns h₀ hf hk hv hl hb hc hexec hacts hcount
  have hstarted := exec_encrypt_of_ready hl hf hk hb hv hc
  rw [hexec] at hstarted
  cases hstarted
  have hstart : Transforming s₀.roms s₀.w l.din d (turns.count (.lane d) + 1)
      ((s₀.setLane d l.start).answer (responseWord .ok 0#24)) := by
    rw [hcount]
    exact ⟨h₀.exec_command rfl hexec, rfl, rfl, hacts, l.start, lane?_setLane_self l.start hl,
      l.ciphering_start _ _, Dpc.left_begin⟩
  obtain ⟨t, hrun, ht⟩ := hstart.run (by decide)
  obtain ⟨m, hm, hcipher, hleft⟩ := ht.lane
  rcases hcipher.turn with ⟨-, hturn⟩ | ⟨hnext, hleft'⟩
  · obtain ⟨-, -, hw⟩ := h₀.key.valid hv
    refine ⟨t.updateLane d (Lane.turn t.roms t.w), m.finish (cipher s₀.roms l.din s₀.w), ?_, ?_, rfl, rfl, rfl, ?_,
      rfl, rfl⟩
    · rw [runAgents_append_of_next hrun, runAgents_cons_of_next (agentStep_lane t d)]
      rfl
    · change (t.updateLane d (Lane.turn t.roms t.w)).lane? d = _
      rw [lane?_updateLane_self, hm, ht.roms, ht.schedule, Option.map_some, hturn]
    · rw [Lane.finish_dout, hw]
  · have hpos := (dpc_left_bounds hnext.reachable).1
    omega

end Sys2Proof.Machine
end

section
/-! # The collapsed reading (spec/30_encoding.md section 6, spec/70_reset_and_hazards.md R342)

Between two commands every busy unit runs to its end, and what that leaves is a function of the state,
`State.settled`. In a state where no unit is busy nothing has to settle, so a list of commands that all answer code 0
and start no unit (`OkRun`) is executed one after the other. -/

namespace Sys2Proof.Machine

/-! ## States where no unit is busy -/

structure State.Quiet (s : State) : Prop where
  kbusy : s.kbusy = false
  lanes : ∀ l ∈ s.lanes, l.dbusy = false

theorem State.Quiet.agentStep {s : State} (h : s.Quiet) {a : Agent} (ha : a ≠ .host) : agentStep a s = .next s := by
  cases a with
  | host => exact absurd rfl ha
  | kse => rw [agentStep_kse, kseTurn_of_idle h.kbusy]
  | lane d =>
    rw [agentStep_lane]
    cases hl : s.lane? d with
    | none => rw [updateLane_of_none _ hl]
    | some l =>
      rw [updateLane_of_some _ hl, Lane.turn_of_idle _ _ (h.lanes l (mem_of_lane? hl)), setLane_of_lane? hl]

theorem State.Quiet.runAgents {s : State} (h : s.Quiet) {turns : List Agent} (hturns : ∀ a ∈ turns, a ≠ .host) :
    runAgents turns s = .next s := by
  induction turns with
  | nil => rfl
  | cons a turns ih =>
    rw [runAgents_cons_of_next (h.agentStep (hturns a List.mem_cons_self))]
    exact ih fun b hb => hturns b (List.mem_cons_of_mem a hb)

/-- The turns that settle a state are those of its units. -/
theorem settle_turns_ne_host (n : Nat) : ∀ a ∈ List.replicate 110 Agent.kse ++
    (List.range n).flatMap fun d => List.replicate 40 (Agent.lane (BitVec.ofNat 8 d)), a ≠ .host := by
  intro a ha
  simp only [List.mem_append, List.mem_flatMap, List.mem_replicate] at ha
  rcases ha with ⟨-, rfl⟩ | ⟨d, -, -, rfl⟩ <;> exact nofun

theorem State.Quiet.settle {s : State} (h : s.Quiet) : s.settle = .next s :=
  h.runAgents (settle_turns_ne_host s.nDp)

/-! ## What settling leaves -/

/-- The engine has taken `n` turns, and then every lane `m`. -/
def State.afterTurns (n m : Nat) (s : State) : State :=
  { State.kseTurn^[n] s with
    lanes := s.lanes.map (Lane.turn (State.kseTurn^[n] s).roms (State.kseTurn^[n] s).w)^[m] }

/-- What settling leaves: 110 turns of the engine and 40 of every lane. -/
def State.settled (s : State) : State := s.afterTurns 110 40

/-- The first `n` lanes have taken their turns. -/
theorem runAgents_flatMap_lanes (s : State) {n : Nat} (hn : n ≤ 256) :
    runAgents ((List.range n).flatMap fun d => List.replicate 40 (.lane (BitVec.ofNat 8 d))) s =
      .next { s with lanes := s.lanes.mapIdx fun j l => if j < n then (Lane.turn s.roms s.w)^[40] l else l } := by
  induction n with
  | zero =>
    have hnone : s.lanes.mapIdx (fun j l => if j < 0 then (Lane.turn s.roms s.w)^[40] l else l) = s.lanes := by
      apply List.ext_getElem?
      intro j
      simp
    rw [hnone]
    rfl
  | succ n ih =>
    have htoNat : (BitVec.ofNat 8 n).toNat = n := by
      rw [BitVec.toNat_ofNat]
      exact Nat.mod_eq_of_lt (by omega)
    rw [List.range_succ, List.flatMap_append, runAgents_append_of_next (ih (by omega)), List.flatMap_singleton,
      runAgents_replicate_lane, State.updateLane, htoNat]
    congr 2
    apply List.ext_getElem?
    intro j
    simp only [List.getElem?_modify, List.getElem?_mapIdx]
    cases s.lanes[j]? with
    | none => rfl
    | some l =>
      rcases Nat.lt_trichotomy j n with hlt | rfl | hgt
      · simp [hlt, Nat.lt_succ_of_lt hlt, hlt.ne']
      · simp
      · simp [Nat.not_lt.mpr hgt.le, Nat.not_lt.mpr (Nat.succ_le_of_lt hgt), hgt.ne]

theorem State.Inv.nDp_le {s : State} (h : s.Inv) : s.nDp ≤ 256 := (of_decide_eq_true h.legal).2

theorem mapIdx_of_lt_length {α : Type} (f : α → α) (xs : List α) :
    (xs.mapIdx fun j x => if j < xs.length then f x else x) = xs.map f := by
  apply List.ext_getElem?
  intro j
  simp only [List.getElem?_mapIdx, List.getElem?_map]
  cases hj : xs[j]? with
  | none => rfl
  | some x =>
    have hlt := (List.getElem?_eq_some_iff.mp hj).1
    simp [hlt]

theorem State.Inv.settle {s : State} (h : s.Inv) : s.settle = .next s.settled := by
  have hlanes (n : Nat) : (State.kseTurn^[n] s).lanes = s.lanes := by rw [kseTurn_iterate_frame]
  rw [State.settle, runAgents_append_of_next (runAgents_replicate_kse 110 s), runAgents_flatMap_lanes _ h.nDp_le,
    hlanes, State.nDp, mapIdx_of_lt_length, State.settled, State.afterTurns]

section
variable (s : State)
theorem State.kbusy_afterTurns (n m : Nat) : (s.afterTurns n m).kbusy = (State.kseTurn^[n] s).kbusy := rfl
theorem State.kvalid_afterTurns (n m : Nat) : (s.afterTurns n m).kvalid = (State.kseTurn^[n] s).kvalid := rfl
@[simp] theorem State.settled_roms : s.settled.roms = s.roms := by
  rw [State.settled, State.afterTurns, kseTurn_iterate_frame]
@[simp] theorem State.settled_keybuf : s.settled.keybuf = s.keybuf := by
  rw [State.settled, State.afterTurns, kseTurn_iterate_frame]
@[simp] theorem State.settled_fatal : s.settled.fatal = s.fatal := by
  rw [State.settled, State.afterTurns, kseTurn_iterate_frame]
@[simp] theorem State.settled_responses : s.settled.responses = s.responses := by
  rw [State.settled, State.afterTurns, kseTurn_iterate_frame]
@[simp] theorem State.settled_length : s.settled.lanes.length = s.lanes.length := List.length_map _
end

theorem State.Inv.of_runAgents {s t : State} {turns : List Agent} (h : s.Inv) (hrun : runAgents turns s = .next t) :
    t.Inv := by
  induction turns generalizing s with
  | nil => cases hrun; exact h
  | cons a turns ih =>
    obtain ⟨u, hu, hrun⟩ := runAgents_cons_eq_next.mp hrun
    exact ih (h.of_agentStep hu) hrun

theorem State.Inv.settled {s : State} (h : s.Inv) : s.settled.Inv := h.of_runAgents h.settle

/-- Settling leaves no unit busy: 110 and 40 turns are enough. -/
theorem State.Inv.settled_quiet {s : State} (h : s.Inv) : s.settled.Quiet where
  kbusy := by
    rw [State.settled, State.kbusy_afterTurns]
    cases hb : s.kbusy with
    | false => rw [kseTurn_iterate_of_idle hb, hb]
    | true =>
      obtain ⟨-, -, hreach, -⟩ := h.key.busy hb
      exact (h.kseTurn_iterate_done hb (kpc_left_bounds hreach).2).1
  lanes := by
    intro m hm
    obtain ⟨l, hl, rfl⟩ := List.mem_map.mp hm
    cases hb : l.dbusy with
    | false => rw [Lane.turn_iterate_of_idle hb, hb]
    | true =>
      have hrun := h.running hl hb
      exact hrun.turn_iterate_idle _ _ (dpc_left_bounds hrun.reachable).2

/-- Settling completes a schedule under construction and keeps a valid one. -/
theorem State.Inv.settled_kvalid {s : State} (h : s.Inv) (hv : s.kvalid = true ∨ s.kbusy = true) :
    s.settled.kvalid = true := by
  rw [State.settled, State.kvalid_afterTurns]
  rcases hv with hv | hb
  · rw [kseTurn_iterate_of_idle (h.key.valid hv).1, hv]
  · obtain ⟨-, -, hreach, -⟩ := h.key.busy hb
    exact (h.kseTurn_iterate_done hb (kpc_left_bounds hreach).2).2

/-- With the engine idle settling is the lanes' turns only. -/
theorem State.settled_of_idle_engine {s : State} (hb : s.kbusy = false) :
    s.settled = { s with lanes := s.lanes.map (Lane.turn s.roms s.w)^[40] } := by
  rw [State.settled, State.afterTurns, kseTurn_iterate_of_idle hb]

/-! ## Lists of commands that succeed and start no unit -/

/-- The commands of the list answer code 0 one after the other. -/
inductive OkRun : List Instr → State → State → Prop
  | nil (s : State) : OkRun [] s s
  | cons {i : Instr} {is : List Instr} {s u t : State} {v : BitVec 24} :
      exec i s = .next (u.answer (responseWord .ok v)) → OkRun is (u.answer (responseWord .ok v)) t →
        OkRun (i :: is) s t

theorem OkRun.execAll {is : List Instr} {s t : State} (h : OkRun is s t) : execAll is s = .next t := by
  induction h with
  | nil => rfl
  | cons hexec _ ih => rw [Machine.execAll, hexec]; exact ih

/-- The command starts a unit when it succeeds. -/
def startsUnit : Instr → Bool
  | .expand => true
  | .encrypt _ => true
  | _ => false

/-- No other command makes a unit busy (the column "written by" of R20). -/
theorem State.Quiet.exec {s t : State} {i : Instr} (h : s.Quiet) (hi : startsUnit i = false)
    (hexec : exec i s = .next t) : t.Quiet := by
  obtain ⟨hkey, hlane⟩ := exec_writers hexec
  obtain ⟨-, hlen, -⟩ := exec_frame hexec
  constructor
  · by_contra hb
    rw [hkey.kbusyRises h.kbusy (Bool.eq_true_of_not_eq_false hb)] at hi
    cases hi
  · intro l' hl'
    obtain ⟨e, he, rfl⟩ := List.mem_iff_getElem.mp hl'
    by_contra hb
    have hidle := h.lanes s.lanes[e] (List.getElem_mem (by omega))
    obtain ⟨d, -, rfl⟩ := (hlane e _ _ (List.getElem?_eq_getElem (by omega)) (List.getElem?_eq_getElem he)).dbusyRises
      hidle (Bool.eq_true_of_not_eq_false hb)
    cases hi

theorem responseCode_responseWord (code : ResultCode) (v : BitVec 24) :
    responseCode (responseWord code v) = code.bits :=
  responseWord_extractLsb'_code code v

/-- A response of code 0 lets the list go on. -/
theorem runPseudo_cons_of_ok {s t u : State} {i : Instr} {v : BitVec 24} (is : List Instr) (hs : s.settle = .next t)
    (hexec : exec i t = .next (u.answer (responseWord .ok v))) :
    runPseudo (i :: is) s = runPseudo is (u.answer (responseWord .ok v)) := by
  simp only [runPseudo, issueSettled, hs, hexec, State.answer_responses, List.getLast?_concat, Option.getD_some,
    responseCode_responseWord]
  rfl

/-- A response of another code ends it. -/
theorem runPseudo_cons_of_failure {s t u : State} {i : Instr} {code : ResultCode} {v : BitVec 24} (is : List Instr)
    (hs : s.settle = .next t) (hexec : exec i t = .next (u.answer (responseWord code v))) (hcode : code ≠ .ok) :
    runPseudo (i :: is) s = .next (u.answer (responseWord code v)) := by
  have hok : ∀ c : ResultCode, c.bits = 0#8 → c = .ok := by intro c; cases c <;> decide
  have hbits : code.bits ≠ 0#8 := fun h => hcode (hok code h)
  simp only [runPseudo, issueSettled, hs, hexec, State.answer_responses, List.getLast?_concat, Option.getD_some,
    responseCode_responseWord, if_neg hbits]

theorem OkRun.runPseudo {is : List Instr} {s t : State} (h : OkRun is s t) (hq : s.Quiet)
    (hi : ∀ i ∈ is, startsUnit i = false) (rest : List Instr) : runPseudo (is ++ rest) s = runPseudo rest t := by
  induction h with
  | nil => rfl
  | cons hexec _ ih =>
    rw [List.cons_append, runPseudo_cons_of_ok _ hq.settle hexec]
    exact ih (hq.exec (hi _ List.mem_cons_self) hexec) fun j hj => hi j (List.mem_cons_of_mem _ hj)

theorem OkRun.quiet {is : List Instr} {s t : State} (h : OkRun is s t) (hq : s.Quiet)
    (hi : ∀ i ∈ is, startsUnit i = false) : t.Quiet := by
  induction h with
  | nil => exact hq
  | cons hexec _ ih =>
    exact ih (hq.exec (hi _ List.mem_cons_self) hexec) fun j hj => hi j (List.mem_cons_of_mem _ hj)

theorem OkRun.inv {is : List Instr} {s t : State} (h : OkRun is s t) (hinv : s.Inv)
    (hi : ∀ i ∈ is, isCommand i = true) : t.Inv := by
  induction h with
  | nil => exact hinv
  | cons hexec _ ih =>
    exact ih (hinv.exec_command (hi _ List.mem_cons_self) hexec) fun j hj => hi j (List.mem_cons_of_mem _ hj)

end Sys2Proof.Machine
end

section
/-! # The exposed operation (spec/43_control_commands.md R255, spec/41_key_expansion.md R179)

ENCRYPTBLOCK is KEYEXPAND before ENCRYPTNEXT. The pushes and the pops of the two are runs that succeed (`OkRun`);
between them EXPAND and ENCRYPT each start a unit, which the next command finds settled. -/

namespace Sys2Proof.Machine

/-! ## Filling a buffer -/

/-- The buffer after the bytes of a list were pushed, from count `c` on (R35, R61). -/
def pushBytes : Block → BitVec 5 → List Byte → Block
  | buf, _, [] => buf
  | buf, c, b :: bs => pushBytes (pushByte buf c b) (satInc c) bs

theorem satInc_toNat (c : BitVec 5) : (satInc c).toNat = min (c.toNat + 1) 31 := by
  revert c
  decide

theorem satInc_iterate_toNat (c : BitVec 5) (n : Nat) : (satInc^[n] c).toNat = min (c.toNat + n) 31 := by
  induction n generalizing c with
  | zero =>
    have hc := c.isLt
    simp only [Function.iterate_zero, id_eq]
    omega
  | succ n ih =>
    rw [Function.iterate_succ_apply, ih, satInc_toNat]
    omega

/-- While all bytes find room, each stands at its own place and what is outside is as before. -/
theorem pushBytes_getElem (bs : List Byte) (buf : Block) (c : BitVec 5) (h : c.toNat + bs.length ≤ 16) (j : Nat)
    (hj : j < 16) : (pushBytes buf c bs)[j] =
      if hin : c.toNat ≤ j ∧ j < c.toNat + bs.length then bs[j - c.toNat]'(by omega) else buf[j] := by
  induction bs generalizing buf c with
  | nil =>
    rw [dif_neg (by simp)]
    rfl
  | cons b bs ih =>
    rw [List.length_cons] at h
    have hnext : (satInc c).toNat = c.toNat + 1 := by
      rw [satInc_toNat]
      omega
    rw [pushBytes, ih _ _ (by omega), pushByte_getElem]
    simp only [hnext, List.length_cons]
    rcases Nat.lt_trichotomy j c.toNat with hlt | heq | hgt
    · rw [dif_neg (by omega), dif_neg (by omega), if_neg (by omega)]
    · subst heq
      rw [dif_neg (by omega), dif_pos (by omega), if_pos rfl]
      simp
    · have hpos : j - c.toNat = (j - (c.toNat + 1)) + 1 := by omega
      by_cases hin : j < c.toNat + 1 + bs.length
      · rw [dif_pos (by omega), dif_pos (by omega)]
        simp [hpos]
      · rw [dif_neg (by omega), dif_neg (by omega), if_neg (by omega)]

/-- Sixteen bytes pushed into an empty buffer are the buffer. -/
theorem pushBytes_block (buf p : Block) : pushBytes buf 0#5 p.toList = p := by
  ext j hj
  rw [pushBytes_getElem p.toList buf 0#5 (by simp) j hj, dif_pos (by simpa using hj)]
  simp

theorem satInc_iterate_zero_eq (n : Nat) : satInc^[n] 0#5 = BitVec.ofNat 5 (min n 31) := by
  apply BitVec.eq_of_toNat_eq
  rw [satInc_iterate_toNat, BitVec.toNat_ofNat, BitVec.toNat_ofNat]
  omega

theorem satInc_iterate_block (p : Block) : satInc^[p.toList.length] 0#5 = 16#5 := by
  rw [Vector.length_toList, satInc_iterate_zero_eq]
  rfl

theorem satInc_iterate_ne {n : Nat} (h : n ≠ 16) : satInc^[n] 0#5 ≠ 16#5 := by
  intro heq
  have htoNat := congrArg BitVec.toNat heq
  rw [satInc_iterate_toNat] at htoNat
  simp at htoNat
  omega

/-- The info value of a wrong length is the saturated count (R281). -/
theorem responseWord_count (code : ResultCode) (n : Nat) :
    responseWord code ((satInc^[n] 0#5).zeroExtend 24) = responseWord code 0#24 ||| BitVec.ofNat 32 (min n 31) := by
  have hall : ∀ code : ResultCode, ∀ m < 32, responseWord code ((BitVec.ofNat 5 m).zeroExtend 24) =
      responseWord code 0#24 ||| BitVec.ofNat 32 m := by
    intro code
    cases code <;> decide
  rw [satInc_iterate_zero_eq]
  exact hall code _ (by omega)

/-! ## Runs of pushes and pops -/

theorem responses_replicate_succ (rs : List Word) (n : Nat) :
    rs ++ [responseWord .ok 0#24] ++ List.replicate n 0x00000000#32 = rs ++ List.replicate (n + 1) 0x00000000#32 := by
  rw [List.append_assoc, List.replicate_succ]
  rfl

/-- The state after the bytes of a list were pushed into the key. -/
def State.keyPushed (s : State) (bs : List Byte) : State :=
  { s with keybuf := pushBytes s.keybuf s.keycnt bs, keycnt := satInc^[bs.length] s.keycnt,
           responses := s.responses ++ List.replicate bs.length 0x00000000#32 }

theorem okRun_keypush {s : State} (bs : List Byte) (hq : s.Quiet) (hf : s.fatal = false) (hv : s.kvalid = false) :
    OkRun (bs.map .keypush) s (s.keyPushed bs) := by
  induction bs generalizing s with
  | nil =>
    have hnil : s.keyPushed [] = s := by simp [State.keyPushed, pushBytes]
    rw [hnil]
    exact .nil s
  | cons b bs ih =>
    have hexec : exec (.keypush b) s = .next ((s.pushKey b).answer (responseWord .ok 0#24)) := by
      rw [exec_keypush_eq_gate, keySideGate_of_idle _ hf hq.kbusy hq.lanes]
    have hrest := ih (s := (s.pushKey b).answer (responseWord .ok 0#24)) ⟨hq.kbusy, hq.lanes⟩ hf rfl
    have hcons : ((s.pushKey b).answer (responseWord .ok 0#24)).keyPushed bs = s.keyPushed (b :: bs) := by
      simp only [State.keyPushed, State.answer_responses, State.pushKey_responses, responses_replicate_succ]
      rw [State.answer, State.pushKey, ← hv]
      rfl
    rw [hcons] at hrest
    exact .cons hexec hrest

/-- The state after the bytes of a list were pushed into the block of lane `d`. -/
def State.blockPushed (s : State) (d : LaneNo) (l : Lane) (bs : List Byte) : State :=
  { s.setLane d { l with din := pushBytes l.din l.dincnt bs, dincnt := satInc^[bs.length] l.dincnt } with
    responses := s.responses ++ List.replicate bs.length 0x00000000#32 }

theorem okRun_dinpush {s : State} {d : LaneNo} {l : Lane} (bs : List Byte) (hf : s.fatal = false)
    (hl : s.lane? d = some l) : OkRun (bs.map (.dinpush d)) s (s.blockPushed d l bs) := by
  induction bs generalizing s l with
  | nil =>
    have hnil : s.blockPushed d l [] = s := by
      simp only [State.blockPushed, pushBytes, List.length_nil, Function.iterate_zero, id_eq, setLane_of_lane? hl,
        List.replicate_zero, List.append_nil]
    rw [hnil]
    exact .nil s
  | cons b bs ih =>
    have hrest := ih (s := (s.setLane d (l.push b)).answer (responseWord .ok 0#24)) hf
      (lane?_setLane_self (l.push b) hl)
    have hcons : ((s.setLane d (l.push b)).answer (responseWord .ok 0#24)).blockPushed d (l.push b) bs =
        s.blockPushed d l (b :: bs) := by
      simp only [State.blockPushed, State.answer_responses, State.setLane_responses, responses_replicate_succ]
      rw [State.setLane, State.answer_lanes, State.setLane_lanes, List.set_set]
      rfl
    rw [hcons] at hrest
    exact .cons (exec_dinpush_of_lane b hl hf) hrest

/-- The state after the ciphertext of lane `d` was read from DOUTRD to its end. -/
def State.allPopped (s : State) (d : LaneNo) (l : Lane) : State :=
  { s.setLane d { l with doutvalid := false, doutrd := 0#5 } with
    responses := s.responses ++ (l.dout.toList.drop l.doutrd.toNat).map fun b => 0x000000#24 ++ b }

/-- The state after one pop, of the byte at DOUTRD. -/
def State.popped (s : State) (d : LaneNo) (l : Lane) (h : l.doutrd.toNat < 16) : State :=
  (s.setLane d l.pop).answer (responseWord .ok (l.dout[l.doutrd.toNat].zeroExtend 24))

theorem exec_doutpop_eq_popped {s : State} {d : LaneNo} {l : Lane} (hf : s.fatal = false) (hl : s.lane? d = some l)
    (hb : l.dbusy = false) (hv : l.doutvalid = true) (h : l.doutrd.toNat < 16) :
    exec (.doutpop d) s = .next (s.popped d l h) :=
  exec_doutpop_of_ready hl hf hb hv (Vector.getElem?_eq_getElem h)

theorem drop_dout_eq_cons (l : Lane) (h : l.doutrd.toNat < 16) :
    l.dout.toList.drop l.doutrd.toNat = l.dout[l.doutrd.toNat] :: l.dout.toList.drop (l.doutrd.toNat + 1) := by
  rw [List.drop_eq_getElem_cons (by simpa using h)]
  simp

/-- The pop of byte 15 is the last. -/
theorem popped_eq_allPopped_of_last (s : State) (d : LaneNo) {l : Lane} (h : l.doutrd.toNat < 16)
    (hlast : l.doutrd.toNat = 15) : s.popped d l h = s.allPopped d l := by
  have hpop : l.pop = { l with doutvalid := false, doutrd := 0#5 } := by
    rw [Lane.pop, if_pos (BitVec.eq_of_toNat_eq hlast)]
  have hnone : l.dout.toList.drop (l.doutrd.toNat + 1) = [] := List.drop_eq_nil_of_le (by simp; omega)
  rw [State.popped, State.allPopped, drop_dout_eq_cons l h, hnone, hpop, responseWord_ok_byte]
  rfl

/-- The pop of an earlier byte leaves the others to read. -/
theorem allPopped_popped (s : State) (d : LaneNo) {l : Lane} (h : l.doutrd.toNat < 16) (hlt : l.doutrd.toNat < 15) :
    (s.popped d l h).allPopped d l.pop = s.allPopped d l := by
  have hpop : l.pop = { l with doutrd := l.doutrd + 1#5 } := by
    rw [Lane.pop, if_neg]
    rintro heq
    rw [heq] at hlt
    exact absurd hlt (by decide)
  have hrd : (l.doutrd + 1#5).toNat = l.doutrd.toNat + 1 := by bv_omega
  rw [State.popped, State.allPopped, State.allPopped, drop_dout_eq_cons l h, State.setLane, State.answer_lanes,
    State.setLane_lanes, List.set_set, State.answer_responses, State.setLane_responses, hpop, responseWord_ok_byte]
  simp only [hrd, List.append_assoc, List.map_cons]
  rfl

theorem okRun_doutpop {s : State} {d : LaneNo} {l : Lane} {n : Nat} (hf : s.fatal = false) (hl : s.lane? d = some l)
    (hb : l.dbusy = false) (hv : l.doutvalid = true) (hrd : l.doutrd.toNat + n = 15) :
    OkRun (List.replicate (n + 1) (.doutpop d)) s (s.allPopped d l) := by
  have hlt : l.doutrd.toNat < 16 := by omega
  have hexec := exec_doutpop_eq_popped hf hl hb hv hlt
  induction n generalizing s l with
  | zero =>
    rw [← popped_eq_allPopped_of_last s d hlt (by omega)]
    exact .cons hexec (.nil _)
  | succ n ih =>
    have hne : l.doutrd ≠ 15#5 := by
      intro heq
      rw [heq, BitVec.toNat_ofNat] at hrd
      omega
    have hrd' : l.pop.doutrd.toNat = l.doutrd.toNat + 1 := by
      rw [Lane.pop_doutrd, if_neg hne]
      bv_omega
    have hv' : l.pop.doutvalid = true := by rw [Lane.pop_doutvalid, if_neg hne, hv]
    have hl' : (s.popped d l hlt).lane? d = some l.pop := lane?_setLane_self l.pop hl
    have hb' : l.pop.dbusy = false := by rw [Lane.pop_dbusy, hb]
    have hrest := ih (s := s.popped d l hlt) hf hl' hb' hv' (by omega) (by omega)
      (exec_doutpop_eq_popped (s := s.popped d l hlt) hf hl' hb' hv' (by omega))
    rw [allPopped_popped s d hlt (by omega)] at hrest
    exact .cons hexec hrest

/-- Settles O52: the run of pops from read position 0. -/
theorem sixteenPopsReturnTheCiphertext : Obligations.SixteenPopsReturnTheCiphertext := by
  intro s d l hf hl hb hv hrd
  have hrun := (okRun_doutpop (n := 15) hf hl hb hv (by rw [hrd]; rfl)).execAll
  rw [State.allPopped, hrd] at hrun
  exact hrun

/-! ## The settled core -/

/-- A core that a list of commands finds: sound, not corrupt, no unit busy. -/
structure State.Ready (s : State) : Prop where
  inv : s.Inv
  quiet : s.Quiet
  fatal : s.fatal = false

/-- Commands that start no unit leave the core ready. -/
theorem OkRun.ready {is : List Instr} {s t : State} (h : OkRun is s t) (hs : s.Ready)
    (hi : ∀ i ∈ is, isCommand i = true ∧ startsUnit i = false) : t.Ready where
  inv := h.inv hs.inv fun i hmem => (hi i hmem).1
  quiet := h.quiet hs.quiet fun i hmem => (hi i hmem).2
  fatal := by
    induction h with
    | nil => exact hs.fatal
    | cons hexec _ ih =>
      obtain ⟨hcommand, hstarts⟩ := hi _ List.mem_cons_self
      obtain ⟨-, -, hfatal, -⟩ := exec_frame hexec
      exact ih ⟨hs.inv.exec_command hcommand hexec, hs.quiet.exec hstarts hexec, hfatal.trans hs.fatal⟩
        fun j hj => hi j (List.mem_cons_of_mem _ hj)

/-- The commands issued in `s` find the ready core `u`: what settling `s` keeps. -/
structure State.SettlesTo (s u : State) : Prop where
  ready : u.Ready
  roms : u.roms = s.roms
  keybuf : u.keybuf = s.keybuf
  responses : u.responses = s.responses
  length : u.lanes.length = s.lanes.length
  kvalid : s.kvalid = true ∨ s.kbusy = true → u.kvalid = true
  run : ∀ i is, runPseudo (i :: is) s = runPseudo (i :: is) u

theorem State.Inv.settlesTo {s : State} (h : s.Inv) (hf : s.fatal = false) : s.SettlesTo s.settled where
  ready := ⟨h.settled, h.settled_quiet, by rw [State.settled_fatal, hf]⟩
  roms := s.settled_roms
  keybuf := s.settled_keybuf
  responses := s.settled_responses
  length := s.settled_length
  kvalid := h.settled_kvalid
  run i is := by rw [runPseudo, runPseudo, issueSettled, issueSettled, h.settle, h.settled_quiet.settle]

/-- Stated for an unnamed `u`, so that what follows does not evaluate the turns of settling. -/
theorem State.Inv.exists_settlesTo {s : State} (h : s.Inv) (hf : s.fatal = false) : ∃ u, s.SettlesTo u :=
  ⟨_, h.settlesTo hf⟩

/-! ## KEYEXPAND -/

/-- The state KEYLOAD leaves: the key pushed into the cleared key side. -/
def State.keyLoaded (u : State) (k : List Byte) : State :=
  (u.clearKeySide.answer (responseWord .ok 0#24)).keyPushed k

section
variable {u : State}

theorem State.keyLoaded_responses (u : State) (k : List Byte) :
    (u.keyLoaded k).responses = u.responses ++ List.replicate (1 + k.length) 0x00000000#32 := by
  rw [State.keyLoaded, State.keyPushed, State.answer_responses, State.clearKeySide_responses,
    responses_replicate_succ, Nat.add_comm]

theorem State.keyLoaded_keycnt (u : State) (k : List Byte) : (u.keyLoaded k).keycnt = satInc^[k.length] 0#5 := rfl

theorem okRun_keyload (h : u.Ready) (k : List Byte) : OkRun (keyload k) u (u.keyLoaded k) := by
  have hexec : exec .keyclr u = .next (u.clearKeySide.answer (responseWord .ok 0#24)) := by
    rw [exec_keyclr_eq_gate, keySideGate_of_idle _ h.fatal h.quiet.kbusy h.quiet.lanes]
  exact .cons hexec (okRun_keypush k (h.quiet.exec rfl hexec) h.fatal rfl)

/-- The commands of KEYLOAD start no unit. -/
theorem keyload_transfers (k : List Byte) : ∀ i ∈ keyload k, isCommand i = true ∧ startsUnit i = false := by
  simp [keyload, isCommand, startsUnit]

/-- KEYLOAD and then EXPAND: what EXPAND finds. -/
theorem State.Ready.runPseudo_keyexpand (h : u.Ready) (k : List Byte) (rest : List Instr) :
    (u.keyLoaded k).Ready ∧ runPseudo (keyexpand k ++ rest) u = runPseudo (.expand :: rest) (u.keyLoaded k) := by
  have hrun := okRun_keyload h k
  refine ⟨hrun.ready h (keyload_transfers k), ?_⟩
  rw [keyexpand, List.append_assoc, hrun.runPseudo h.quiet fun i hi => (keyload_transfers k i hi).2]
  rfl

/-- A key of another length stops at EXPAND. -/
theorem State.Ready.runPseudo_keyexpand_fails (h : u.Ready) {k : List Byte} (hk : k.length ≠ 16) (rest : List Instr) :
    runPseudo (keyexpand k ++ rest) u =
      .next ((u.keyLoaded k).answer (responseWord .eKeylen ((satInc^[k.length] 0#5).zeroExtend 24))) := by
  obtain ⟨hload, hrun⟩ := h.runPseudo_keyexpand k rest
  have hexec : exec .expand (u.keyLoaded k) =
      .next ((u.keyLoaded k).answer (responseWord .eKeylen ((satInc^[k.length] 0#5).zeroExtend 24))) := by
    rw [exec_expand_eq_gate, keySideGate_of_idle _ hload.fatal hload.quiet.kbusy hload.quiet.lanes,
      State.keyLoaded_keycnt, if_pos (satInc_iterate_ne hk)]
  rw [hrun, runPseudo_cons_of_failure _ hload.quiet.settle hexec (by decide)]

/-- A sixteen-byte key: eighteen responses, the key in KEYBUF and the engine busy. -/
theorem State.Ready.runPseudo_keyexpand_ok (h : u.Ready) (k : Block) (rest : List Instr) :
    ∃ v, runPseudo (keyexpand k.toList ++ rest) u = runPseudo rest v ∧ v.Inv ∧ v.fatal = false ∧ v.kbusy = true ∧
      v.roms = u.roms ∧ v.keybuf = k ∧ v.lanes = u.lanes ∧
      v.responses = u.responses ++ List.replicate 18 0x00000000#32 := by
  obtain ⟨hload, hrun⟩ := h.runPseudo_keyexpand k.toList rest
  have hexec : exec .expand (u.keyLoaded k.toList) =
      .next ((u.keyLoaded k.toList).beginExpansion.answer (responseWord .ok 0#24)) := by
    rw [exec_expand_eq_gate, keySideGate_of_idle _ hload.fatal hload.quiet.kbusy hload.quiet.lanes,
      State.keyLoaded_keycnt, if_neg (not_not_intro (satInc_iterate_block k))]
  refine ⟨_, hrun.trans (runPseudo_cons_of_ok _ hload.quiet.settle hexec), hload.inv.exec_command rfl hexec,
    hload.fatal, rfl, rfl, pushBytes_block _ k, rfl, ?_⟩
  rw [State.answer_responses, State.beginExpansion_responses, State.keyLoaded_responses, List.append_assoc,
    Vector.length_toList]
  rfl

/-! ## ENCRYPTNEXT -/

/-- The commands of BLKLOAD start no unit. -/
theorem blkload_transfers (d : LaneNo) (p : List Byte) :
    ∀ i ∈ blkload d p, isCommand i = true ∧ startsUnit i = false := by
  simp [blkload, isCommand, startsUnit]

/-- The state BLKLOAD leaves: the block pushed into the cleared buffer of the lane. -/
def State.blockLoaded (u : State) (d : LaneNo) (l : Lane) (p : List Byte) : State :=
  ((u.setLane d l.clearIn).answer (responseWord .ok 0#24)).blockPushed d l.clearIn p

theorem okRun_blkload (hf : u.fatal = false) {d : LaneNo} {l : Lane} (hl : u.lane? d = some l) (p : List Byte) :
    OkRun (blkload d p) u (u.blockLoaded d l p) :=
  .cons (exec_dinclr_of_lane hl hf) (okRun_dinpush p hf (lane?_setLane_self _ hl))

theorem State.blockLoaded_responses (u : State) (d : LaneNo) (l : Lane) (p : List Byte) :
    (u.blockLoaded d l p).responses = u.responses ++ List.replicate (1 + p.length) 0x00000000#32 := by
  rw [State.blockLoaded, State.blockPushed, State.answer_responses, State.setLane_responses,
    responses_replicate_succ, Nat.add_comm]

/-- BLKLOAD and then ENCRYPT: what ENCRYPT finds. -/
theorem State.Ready.runPseudo_blkload (h : u.Ready) {d : LaneNo} (hd : d.toNat < u.lanes.length) (p : List Byte)
    (rest : List Instr) :
    ∃ t m, runPseudo (blkload d p ++ rest) u = runPseudo rest t ∧ t.Ready ∧ t.lane? d = some m ∧
      m.din = pushBytes zeroBlock 0#5 p ∧ m.dincnt = satInc^[p.length] 0#5 ∧ t.kvalid = u.kvalid ∧ t.w = u.w ∧
      t.keybuf = u.keybuf ∧ t.roms = u.roms ∧
      t.responses = u.responses ++ List.replicate (1 + p.length) 0x00000000#32 := by
  obtain ⟨l, hl⟩ : ∃ l, u.lane? d = some l := ⟨_, List.getElem?_eq_getElem hd⟩
  have hrun := okRun_blkload h.fatal hl p
  exact ⟨_, _, hrun.runPseudo h.quiet (fun i hi => (blkload_transfers d p i hi).2) rest,
    hrun.ready h (blkload_transfers d p), lane?_setLane_self _ (lane?_setLane_self _ hl), rfl, rfl, rfl, rfl, rfl, rfl,
    u.blockLoaded_responses d l p⟩

/-- Forty turns of a lane that ENCRYPT started leave the ciphertext of its block in it. -/
theorem State.settled_lane_of_start {t : State} (hb : t.kbusy = false) {d : LaneNo} {l : Lane}
    (hl : t.lane? d = some l.start) :
    ∃ m, t.settled.lane? d = some m ∧ m.doutvalid = true ∧ m.doutrd = 0#5 ∧ m.dout = cipher t.roms l.din t.w := by
  refine ⟨(Lane.turn t.roms t.w)^[40] l.start, ?_, (l.ciphering_start t.roms t.w).turn_iterate_done ?_⟩
  · rw [State.settled_of_idle_engine hb, State.lane?, List.getElem?_map]
    exact congrArg (Option.map _) hl
  · rw [Lane.start_dpc]
    decide

/-- The sixteen pops after ENCRYPT: the first finds the core settled, and the ciphertext is answered. -/
theorem State.Inv.runPseudo_blkread {t : State} (h : t.Inv) (hf : t.fatal = false) (hv : t.kvalid = true)
    {d : LaneNo} {l : Lane} (hl : t.lane? d = some l.start) :
    ∃ v, runPseudo (blkread d) t = .next v ∧ v.kvalid = true ∧ v.w = t.w ∧ v.keybuf = t.keybuf ∧
      v.responses = t.responses ++ (cipher t.roms l.din t.w).toList.map fun b => 0x000000#24 ++ b := by
  obtain ⟨hb, -, hschedule⟩ := h.key.valid hv
  obtain ⟨m, hm, hvalid, hrd, hdout⟩ := State.settled_lane_of_start hb hl
  have hu := h.settlesTo hf
  generalize t.settled = u at hm hu
  obtain ⟨-, -, hschedule'⟩ := hu.ready.inv.key.valid (hu.kvalid (.inl hv))
  rw [hu.roms, hu.keybuf, ← hschedule] at hschedule'
  have hpops := okRun_doutpop (n := 15) hu.ready.fatal hm (hu.ready.quiet.lanes m (mem_of_lane? hm)) hvalid
    (by rw [hrd]; rfl)
  have hstarts : ∀ i ∈ List.replicate 16 (Instr.doutpop d), startsUnit i = false := by
    intro i hi
    rw [List.eq_of_mem_replicate hi]
    rfl
  refine ⟨u.allPopped d m, ?_, hu.kvalid (.inl hv), hschedule', hu.keybuf, ?_⟩
  · have hrun := hpops.runPseudo hu.ready.quiet hstarts []
    rw [List.append_nil] at hrun
    rw [blkread, List.replicate_succ, hu.run, ← List.replicate_succ, hrun, runPseudo]
  · rw [State.allPopped, hu.responses, hrd, hdout]
    rfl

/-- ENCRYPT of a loaded block and the sixteen pops: the ciphertext is answered, and the key side is as it was. -/
theorem State.Ready.runPseudo_encrypt (h : u.Ready) {d : LaneNo} {l : Lane} (hl : u.lane? d = some l)
    (hv : u.kvalid = true) (hc : l.dincnt = 16#5) :
    ∃ v, runPseudo (.encrypt d :: blkread d) u = .next v ∧ v.kvalid = true ∧ v.w = u.w ∧ v.keybuf = u.keybuf ∧
      v.responses = u.responses ++ [0x00000000#32] ++
        (cipher u.roms l.din u.w).toList.map fun b => 0x000000#24 ++ b := by
  have hexec := exec_encrypt_of_ready hl h.fatal h.quiet.kbusy (h.quiet.lanes l (mem_of_lane? hl)) hv hc
  rw [runPseudo_cons_of_ok _ h.quiet.settle hexec]
  exact (h.inv.exec_command rfl hexec).runPseudo_blkread h.fatal hv (lane?_setLane_self l.start hl)

end

/-- ENCRYPTNEXT of a sixteen-byte block, with a schedule that is valid or will be when the engine ends. -/
theorem State.Inv.runPseudo_encryptnext {s : State} (h : s.Inv) (hf : s.fatal = false) {d : LaneNo}
    (hd : d.toNat < s.lanes.length) (hv : s.kvalid = true ∨ s.kbusy = true) (p : Block) :
    ∃ t, runPseudo (encryptnext d p.toList) s = .next t ∧ t.kvalid = true ∧
      t.w = keyExpansion s.roms s.keybuf ∧ t.keybuf = s.keybuf ∧
      t.responses = s.responses ++ List.replicate 18 0x00000000#32 ++
        (cipher s.roms p (keyExpansion s.roms s.keybuf)).toList.map fun b => 0x000000#24 ++ b := by
  obtain ⟨u, hu⟩ := h.exists_settlesTo hf
  obtain ⟨v, m, hrun, hready, hm, hdin, hdincnt, hvalid, hw, hkeybuf, hroms, hresponses⟩ :=
    hu.ready.runPseudo_blkload (hu.length ▸ hd) p.toList (.encrypt d :: blkread d)
  have hkvalid := hu.kvalid hv
  obtain ⟨t, hrun', htvalid, htw, htkeybuf, htresponses⟩ := hready.runPseudo_encrypt hm (hvalid.trans hkvalid)
    (hdincnt.trans (satInc_iterate_block p))
  obtain ⟨-, -, hschedule⟩ := hu.ready.inv.key.valid hkvalid
  rw [hu.roms, hu.keybuf] at hschedule
  rw [pushBytes_block] at hdin
  refine ⟨t, ?_, htvalid, htw.trans (hw.trans hschedule), htkeybuf.trans (hkeybuf.trans hu.keybuf), ?_⟩
  · rw [← hrun', ← hrun, encryptnext, List.append_assoc]
    exact hu.run _ _
  · rw [htresponses, hresponses, hu.responses, hroms, hu.roms, hdin, hw, hschedule, Vector.length_toList,
      List.append_assoc s.responses]
    rfl

/-- Settles O56: ENCRYPTNEXT on a valid schedule. -/
theorem encryptNextReusesTheSchedule : Obligations.EncryptNextReusesTheSchedule := by
  intro s d p h hf hd hv
  obtain ⟨t, hrun, hvalid, hw, hkeybuf, hresponses⟩ := h.runPseudo_encryptnext hf hd (.inl hv) p
  obtain ⟨-, -, hschedule⟩ := h.key.valid hv
  exact ⟨t, hrun, hvalid, hw.trans hschedule.symm, hkeybuf, hresponses⟩

/-! ## ENCRYPTBLOCK -/

/-- ENCRYPTBLOCK of a sixteen-byte key goes on with ENCRYPTNEXT, the engine busy on the key. -/
theorem State.Inv.runPseudo_encryptblock {s : State} (h : s.Inv) (hf : s.fatal = false) (d : LaneNo) (p : List Byte)
    (k : Block) :
    ∃ v, runPseudo (encryptblock d p k.toList) s = runPseudo (encryptnext d p) v ∧ v.Inv ∧ v.fatal = false ∧
      v.kbusy = true ∧ v.roms = s.roms ∧ v.keybuf = k ∧ v.lanes.length = s.lanes.length ∧
      v.responses = s.responses ++ List.replicate 18 0x00000000#32 := by
  obtain ⟨u, hu⟩ := h.exists_settlesTo hf
  obtain ⟨v, hrun, hinv, hfatal, hbusy, hroms, hkeybuf, hlanes, hresponses⟩ :=
    hu.ready.runPseudo_keyexpand_ok k (encryptnext d p)
  refine ⟨v, (hu.run _ _).trans hrun, hinv, hfatal, hbusy, hroms.trans hu.roms, hkeybuf, ?_, ?_⟩
  · rw [hlanes, hu.length]
  · rw [hresponses, hu.responses]

/-- Settles O54: KEYEXPAND starts the engine on the key, and ENCRYPTNEXT finds its schedule. -/
theorem encryptBlockReturnsTheCiphertext : Obligations.EncryptBlockReturnsTheCiphertext := by
  intro s d p k h hf hd
  obtain ⟨v, hrun, hinv, hfatal, hbusy, hroms, hkeybuf, hlength, hresponses⟩ :=
    h.runPseudo_encryptblock hf d p.toList k
  obtain ⟨t, hrun', -, -, -, ht⟩ := hinv.runPseudo_encryptnext hfatal (hlength ▸ hd) (.inr hbusy) p
  refine ⟨t, hrun.trans hrun', ?_⟩
  rw [ht, hresponses, hroms, hkeybuf, List.append_assoc s.responses, List.replicate_append_replicate]

/-- A block of another length stops at ENCRYPT. -/
theorem State.Inv.runPseudo_encryptnext_fails {s : State} (h : s.Inv) (hf : s.fatal = false) {d : LaneNo}
    (hd : d.toNat < s.lanes.length) (hv : s.kvalid = true ∨ s.kbusy = true) {p : List Byte} (hp : p.length ≠ 16) :
    ∃ t, runPseudo (encryptnext d p) s = .next t ∧ t.kvalid = true ∧
      t.responses = s.responses ++ List.replicate (1 + p.length) 0x00000000#32 ++
        [0x02000000#32 ||| BitVec.ofNat 32 (min p.length 31)] := by
  obtain ⟨u, hu⟩ := h.exists_settlesTo hf
  obtain ⟨v, m, hrun, hready, hm, -, hdincnt, hvalid, -, -, -, hresponses⟩ :=
    hu.ready.runPseudo_blkload (hu.length ▸ hd) p (.encrypt d :: blkread d)
  have hvvalid := hvalid.trans (hu.kvalid hv)
  have hexec := exec_encrypt_of_wrong_length hm hready.fatal hready.quiet.kbusy (hready.quiet.lanes m (mem_of_lane? hm))
    hvvalid (hdincnt ▸ satInc_iterate_ne hp)
  have hstop := runPseudo_cons_of_failure (blkread d) hready.quiet.settle hexec (by decide)
  refine ⟨v.answer (responseWord .eBlklen (m.dincnt.zeroExtend 24)), ?_, hvvalid, ?_⟩
  · rw [← hstop, ← hrun, encryptnext, List.append_assoc]
    exact hu.run _ _
  · rw [State.answer_responses, hresponses, hu.responses, hdincnt, responseWord_count]
    rfl

/-- Settles O55: a wrong key length is found at EXPAND, a wrong block length at ENCRYPT. -/
theorem encryptBlockRejectsWrongLengths : Obligations.EncryptBlockRejectsWrongLengths := by
  constructor
  · intro s d p k h hf _ hk
    obtain ⟨u, hu⟩ := h.exists_settlesTo hf
    refine ⟨_, (hu.run _ _).trans (hu.ready.runPseudo_keyexpand_fails hk (encryptnext d p)), rfl, ?_⟩
    rw [State.answer_responses, State.keyLoaded_responses, hu.responses, responseWord_count]
    rfl
  · intro s d p k h hf hd hp
    obtain ⟨v, hrun, hinv, hfatal, hbusy, -, -, hlength, hresponses⟩ := h.runPseudo_encryptblock hf d p k
    obtain ⟨t, hrun', hvalid, ht⟩ := hinv.runPseudo_encryptnext_fails hfatal (hlength ▸ hd) (.inr hbusy) hp
    refine ⟨t, hrun.trans hrun', hvalid, ?_⟩
    rw [ht, hresponses, List.append_assoc s.responses, List.replicate_append_replicate, ← Nat.add_assoc]

end Sys2Proof.Machine
end

section
/-! # What does not depend on hidden or data bytes (spec/10_state.md R50, spec/70_reset_and_hazards.md R344)

Two relations on states, `VisibleEq` and `ControlEq`, are kept by every command for the same reasons: each command reads
only counts and flags to decide what it does, and its effects keep the relation. `CommandRel` lists those reasons, and
`CommandRel.exec` draws the conclusion once for both. -/

namespace Sys2Proof.Machine

/-! ## Related answers -/

/-- Two answers of the same kind, the next states related. -/
inductive SameAnswer (R : State → State → Prop) : Result → Result → Prop
  | next {s t : State} : R s t → SameAnswer R (.next s) (.next t)
  | fault (f : Fault) : SameAnswer R (.fault f) (.fault f)

theorem SameAnswer.of_next {R : State → State → Prop} {s' : State} {r : Result} (h : SameAnswer R (.next s') r) :
    ∃ t', r = .next t' ∧ R s' t' := by
  cases h with
  | next h => exact ⟨_, rfl, h⟩

/-! ## Lists of related lanes -/

section
variable {α : Type} {R : α → α → Prop} {xs ys : List α}

theorem forall₂_getElem? (h : List.Forall₂ R xs ys) (n : Nat) :
    (xs[n]? = none ∧ ys[n]? = none) ∨ ∃ a b, xs[n]? = some a ∧ ys[n]? = some b ∧ R a b := by
  induction h generalizing n with
  | nil => exact .inl ⟨rfl, rfl⟩
  | cons hab _ ih =>
    cases n with
    | zero => exact .inr ⟨_, _, rfl, rfl, hab⟩
    | succ n => exact ih n

theorem forall₂_set {a b : α} (h : List.Forall₂ R xs ys) (n : Nat) (hab : R a b) :
    List.Forall₂ R (xs.set n a) (ys.set n b) := by
  induction h generalizing n with
  | nil => exact .nil
  | cons hxy hrest ih =>
    cases n with
    | zero => exact .cons hab hrest
    | succ n => exact .cons hxy (ih n)

theorem forall₂_modify {f g : α → α} (h : List.Forall₂ R xs ys) (n : Nat) (hfg : ∀ a b, R a b → R (f a) (g b)) :
    List.Forall₂ R (xs.modify n f) (ys.modify n g) := by
  induction h generalizing n with
  | nil => simp
  | cons hxy hrest ih =>
    cases n with
    | zero => exact .cons (hfg _ _ hxy) hrest
    | succ n => exact .cons hxy (ih n)

theorem forall₂_all_eq {p q : α → Bool} (h : List.Forall₂ R xs ys) (hpq : ∀ a b, R a b → p a = q b) :
    xs.all p = ys.all q := by
  induction h with
  | nil => rfl
  | cons hab _ ih => rw [List.all_cons, List.all_cons, hpq _ _ hab, ih]

end

/-! ## Commands -/

/-- What makes a relation on states, with one on lanes, kept by every command: it decides the counts and flags the
commands read, and the effects keep it. -/
structure CommandRel (R : State → State → Prop) (Q : Lane → Lane → Prop) : Prop where
  lanes {s t : State} : R s t → List.Forall₂ Q s.lanes t.lanes
  keycnt {s t : State} : R s t → s.keycnt = t.keycnt
  kvalid {s t : State} : R s t → s.kvalid = t.kvalid
  kbusy {s t : State} : R s t → s.kbusy = t.kbusy
  fatal {s t : State} : R s t → s.fatal = t.fatal
  dincnt {l m : Lane} : Q l m → l.dincnt = m.dincnt
  doutvalid {l m : Lane} : Q l m → l.doutvalid = m.doutvalid
  doutrd {l m : Lane} : Q l m → l.doutrd = m.doutrd
  dbusy {l m : Lane} : Q l m → l.dbusy = m.dbusy
  answer {s t : State} (rsp : Word) : R s t → R (s.answer rsp) (t.answer rsp)
  clearKeySide {s t : State} : R s t → R s.clearKeySide t.clearKeySide
  pushKey {s t : State} (b : Byte) : R s t → R (s.pushKey b) (t.pushKey b)
  beginExpansion {s t : State} : R s t → R s.beginExpansion t.beginExpansion
  setLane {s t : State} {l m : Lane} (d : LaneNo) : R s t → Q l m → R (s.setLane d l) (t.setLane d m)
  clearIn {l m : Lane} : Q l m → Q l.clearIn m.clearIn
  push {l m : Lane} (b : Byte) : Q l m → Q (l.push b) (m.push b)
  start {l m : Lane} : Q l m → Q l.start m.start
  pop {l m : Lane} : Q l m → Q l.pop m.pop
  answerPopped {s t : State} {l m : Lane} (j : Fin 16) : R s t → Q l m →
    R (s.answer (responseWord .ok (l.dout[j].zeroExtend 24))) (t.answer (responseWord .ok (m.dout[j].zeroExtend 24)))

section
variable {R : State → State → Prop} {Q : Lane → Lane → Prop} {s t : State}

/-- A lane is absent in both states, or related in both. -/
theorem CommandRel.lane?_cases (H : CommandRel R Q) (h : R s t) (d : LaneNo) :
    (s.lane? d = none ∧ t.lane? d = none) ∨ ∃ l m, s.lane? d = some l ∧ t.lane? d = some m ∧ Q l m :=
  forall₂_getElem? (H.lanes h) d.toNat

theorem CommandRel.lanesIdle_eq (H : CommandRel R Q) (h : R s t) : s.lanesIdle = t.lanesIdle :=
  forall₂_all_eq (H.lanes h) fun _ _ hlm => by rw [H.dbusy hlm]

theorem CommandRel.laneIdle_eq (H : CommandRel R Q) (h : R s t) (d : LaneNo) : s.laneIdle d = t.laneIdle d := by
  rcases H.lane?_cases h d with ⟨hs, ht⟩ | ⟨l, m, hs, ht, hlm⟩
  · rw [State.laneIdle, State.laneIdle, hs, ht]
  · rw [State.laneIdle, State.laneIdle, hs, ht]
    exact congrArg not (H.dbusy hlm)

theorem CommandRel.released_eq (H : CommandRel R Q) (h : R s t) (i : Instr) : released i s = released i t := by
  cases i <;> simp only [released, H.kbusy h, H.lanesIdle_eq h, H.laneIdle_eq h]

theorem CommandRel.unlessFatal (H : CommandRel R Q) (h : R s t) {k k' : Result} (hk : SameAnswer R k k') :
    SameAnswer R (Machine.unlessFatal s k) (Machine.unlessFatal t k') := by
  unfold Machine.unlessFatal
  rw [H.fatal h]
  split
  · exact .next (H.answer _ h)
  · exact hk

/-- The hold of a command, in front of what it does when it is released. -/
theorem CommandRel.holdUntil (H : CommandRel R Q) (h : R s t) (i : Instr) {k k' : Result} (hk : SameAnswer R k k') :
    SameAnswer R (Machine.holdUntil (released i s) s k) (Machine.holdUntil (released i t) t k') := by
  unfold Machine.holdUntil
  rw [H.released_eq h]
  split
  · exact hk
  · exact .next h

theorem CommandRel.onLane (H : CommandRel R Q) (h : R s t) (d : LaneNo) {k k' : Lane → Result}
    (hk : ∀ l m, Q l m → SameAnswer R (k l) (k' m)) : SameAnswer R (Machine.onLane d s k) (Machine.onLane d t k') := by
  rcases H.lane?_cases h d with ⟨hs, ht⟩ | ⟨l, m, hs, ht, hlm⟩
  · rw [onLane_of_none _ hs, onLane_of_none _ ht]
    exact .next (H.answer _ h)
  · rw [onLane_of_some _ hs, onLane_of_some _ ht]
    exact hk l m hlm

theorem CommandRel.keyStatus_eq (H : CommandRel R Q) (h : R s t) : keyStatus s = keyStatus t := by
  rw [keyStatus, keyStatus, H.keycnt h, H.fatal h, H.kbusy h, H.kvalid h]

theorem CommandRel.laneStatus_eq (H : CommandRel R Q) (h : R s t) {l m : Lane} (hlm : Q l m) :
    laneStatus s l = laneStatus t m := by
  rw [laneStatus, laneStatus, H.doutrd hlm, H.dincnt hlm, H.fatal h, H.dbusy hlm, H.doutvalid hlm]

theorem CommandRel.execExpand (H : CommandRel R Q) (h : R s t) : SameAnswer R (exec .expand s) (exec .expand t) := by
  refine H.unlessFatal h (H.holdUntil h .expand ?_)
  rw [H.keycnt h]
  split
  · exact .next (H.answer _ h)
  · exact .next (H.answer _ (H.beginExpansion h))

theorem CommandRel.execEncrypt (H : CommandRel R Q) (h : R s t) (d : LaneNo) :
    SameAnswer R (exec (.encrypt d) s) (exec (.encrypt d) t) := by
  refine H.onLane h d fun l m hlm => H.unlessFatal h (H.holdUntil h (.encrypt d) ?_)
  rw [H.kvalid h, H.dincnt hlm]
  split
  · exact .next (H.answer _ h)
  · split
    · exact .next (H.answer _ h)
    · exact .next (H.answer _ (H.setLane d h (H.start hlm)))

theorem CommandRel.execDoutpop (H : CommandRel R Q) (h : R s t) (d : LaneNo) :
    SameAnswer R (exec (.doutpop d) s) (exec (.doutpop d) t) := by
  refine H.onLane h d fun l m hlm => H.unlessFatal h (H.holdUntil h (.doutpop d) ?_)
  rw [H.doutvalid hlm, H.doutrd hlm]
  split
  · exact .next (H.answer _ h)
  · by_cases hrd : m.doutrd.toNat < 16
    · rw [Vector.getElem?_eq_getElem hrd, Vector.getElem?_eq_getElem hrd]
      exact .next (H.answerPopped ⟨_, hrd⟩ (H.setLane d h (H.pop hlm)) hlm)
    · rw [Vector.getElem?_eq_none (by omega), Vector.getElem?_eq_none (by omega)]
      exact .fault _

/-- Every command answers the same in related states, and leaves related states. -/
theorem CommandRel.exec (H : CommandRel R Q) (h : R s t) {i : Instr} (hi : isCommand i = true) :
    SameAnswer R (Machine.exec i s) (Machine.exec i t) := by
  cases i with
  | nop => exact .next (H.answer _ h)
  | kstat =>
    refine .next ?_
    rw [H.keyStatus_eq h]
    exact H.answer _ h
  | dstat d =>
    refine H.onLane h d fun l m hlm => .next ?_
    rw [H.laneStatus_eq h hlm]
    exact H.answer _ h
  | keyclr => exact H.unlessFatal h (H.holdUntil h .keyclr (.next (H.answer _ (H.clearKeySide h))))
  | keypush b => exact H.unlessFatal h (H.holdUntil h (.keypush b) (.next (H.answer _ (H.pushKey b h))))
  | expand => exact H.execExpand h
  | dinclr d =>
    exact H.onLane h d fun l m hlm =>
      H.unlessFatal h (H.holdUntil h (.dinclr d) (.next (H.answer _ (H.setLane d h (H.clearIn hlm)))))
  | dinpush d b =>
    exact H.onLane h d fun l m hlm =>
      H.unlessFatal h (H.holdUntil h (.dinpush d b) (.next (H.answer _ (H.setLane d h (H.push b hlm)))))
  | encrypt d => exact H.execEncrypt h d
  | doutpop d => exact H.execDoutpop h d
  | kld _ => cases hi
  | krot _ => cases hi
  | ksub _ => cases hi
  | krc _ => cases hi
  | kst _ => cases hi
  | sb _ _ => cases hi
  | sr _ _ => cases hi
  | mc _ _ => cases hi
  | ark _ _ => cases hi

end

/-! ## The hidden items -/

theorem visibleEq_commandRel : CommandRel VisibleEq LaneVisibleEq where
  lanes h := h.lanes
  keycnt h := h.keycnt
  kvalid h := h.kvalid
  kbusy h := h.kbusy
  fatal h := h.fatal
  dincnt h := h.dincnt
  doutvalid h := h.doutvalid
  doutrd h := h.doutrd
  dbusy h := h.dbusy
  answer rsp h := { h with responses := congrArg (· ++ [rsp]) h.responses }
  clearKeySide h := { h with keycnt := rfl, kvalid := rfl }
  pushKey _ h := { h with keycnt := congrArg satInc h.keycnt, kvalid := rfl }
  beginExpansion h := by constructor <;> simp [h.lanes, h.keycnt, h.fatal, h.responses]
  setLane d h hlm := { h with lanes := forall₂_set h.lanes d.toNat hlm }
  clearIn h := { h with dincnt := rfl }
  push _ h := { h with dincnt := congrArg satInc h.dincnt }
  start h := { h with dincnt := rfl, doutvalid := rfl, doutrd := rfl, dbusy := rfl }
  pop h := by
    unfold Lane.pop
    rw [h.doutrd]
    split
    · exact { h with doutvalid := rfl, doutrd := rfl }
    · exact { h with doutrd := rfl }
  answerPopped j h hlm := by
    rw [hlm.dout]
    exact { h with responses := congrArg (· ++ [_]) h.responses }

/-- Settles O60: no command reads a hidden item but to write another hidden one. -/
theorem hiddenStateIsNotObservable : Obligations.HiddenStateIsNotObservable := by
  intro s t s' i hi h hexec
  have hsame := visibleEq_commandRel.exec h hi
  rw [hexec] at hsame
  exact hsame.of_next

/-! ## The data bytes -/

theorem controlEq_commandRel : CommandRel ControlEq LaneControlEq where
  lanes h := h.lanes
  keycnt h := h.keycnt
  kvalid h := h.kvalid
  kbusy h := h.kbusy
  fatal h := h.fatal
  dincnt h := h.dincnt
  doutvalid h := h.doutvalid
  doutrd h := h.doutrd
  dbusy h := h.dbusy
  answer rsp h := { h with codes := by simp [h.codes] }
  clearKeySide h := { h with keycnt := rfl, kvalid := rfl }
  pushKey _ h := { h with keycnt := congrArg satInc h.keycnt, kvalid := rfl }
  beginExpansion h := by
    constructor <;> simp [h.roms, h.lanes, h.keycnt, h.fatal, h.hostActions, h.codes, h.schedule, h.stepCount]
  setLane d h hlm := { h with lanes := forall₂_set h.lanes d.toNat hlm }
  clearIn h := { h with dincnt := rfl }
  push _ h := { h with dincnt := congrArg satInc h.dincnt }
  start h := { h with dincnt := rfl, doutvalid := rfl, doutrd := rfl, dbusy := rfl, dpc := rfl }
  pop h := by
    unfold Lane.pop
    rw [h.doutrd]
    split
    · exact { h with doutvalid := rfl, doutrd := rfl }
    · exact { h with doutrd := rfl }
  answerPopped j h _ := { h with codes := by simp [h.codes, responseCode_responseWord] }

section
variable {s t : State}

theorem ControlEq.nDp (h : ControlEq s t) : s.nDp = t.nDp := h.lanes.length_eq

theorem ControlEq.setTemp (h : ControlEq s t) (x y : Word) (k : Kpc) : ControlEq (s.setTemp x k) (t.setTemp y k) :=
  { h with kpc := rfl }

theorem ControlEq.storeWord (h : ControlEq s t) (i : Nat) (x y : Word) (k : Kpc) :
    ControlEq (s.storeWord i x k) (t.storeWord i y k) :=
  { h with kpc := rfl }

theorem ControlEq.endExpansion (h : ControlEq s t) (i : Nat) (x y : Word) :
    ControlEq (s.endExpansion i x) (t.endExpansion i y) :=
  { h with kpc := rfl, kbusy := rfl, kvalid := rfl }

/-- Each micro-operation writes data and advances the sequencer by its own value (R31). -/
theorem ControlEq.kseMicro (h : ControlEq s t) : ControlEq s.kseMicro t.kseMicro := by
  unfold State.kseMicro
  rw [h.kpc]
  split_ifs
  · exact h.setTemp _ _ _
  · exact h.setTemp _ _ _
  · exact h.setTemp _ _ _
  · exact h.setTemp _ _ _
  · exact h.storeWord _ _ _ _
  · exact h.endExpansion _ _ _

theorem ControlEq.kseTurn (h : ControlEq s t) : ControlEq s.kseTurn t.kseTurn := by
  unfold State.kseTurn
  rw [h.kbusy, h.kpc]
  split
  · exact h.kseMicro
  · exact h

section
variable {l m : Lane}

theorem LaneControlEq.setS (h : LaneControlEq l m) (x y : Block) (p : Dpc) :
    LaneControlEq (l.setS x p) (m.setS y p) :=
  { h with dpc := rfl }

theorem LaneControlEq.finish (h : LaneControlEq l m) (x y : Block) : LaneControlEq (l.finish x) (m.finish y) :=
  { h with doutvalid := rfl, doutrd := rfl, dbusy := rfl, dpc := rfl }

/-- Each micro-operation writes data and advances the sequencer by its own value (R41). -/
theorem LaneControlEq.micro (h : LaneControlEq l m) (r r' : Roms) (w w' : Schedule) :
    LaneControlEq (l.micro r w) (m.micro r' w') := by
  unfold Lane.micro
  rw [h.dpc]
  split_ifs
  · exact h.setS _ _ _
  · exact h.setS _ _ _
  · exact h.setS _ _ _
  · exact h.setS _ _ _
  · exact h.finish _ _

theorem LaneControlEq.turn (h : LaneControlEq l m) (r r' : Roms) (w w' : Schedule) :
    LaneControlEq (l.turn r w) (m.turn r' w') := by
  unfold Lane.turn
  rw [h.dbusy, h.dpc]
  split
  · exact h.micro r r' w w'
  · exact h

end

theorem ControlEq.setHost (h : ControlEq s t) (acts : List HostAction) : ControlEq (s.setHost acts) (t.setHost acts) :=
  { h with hostActions := rfl }

theorem ControlEq.tick (h : ControlEq s t) : ControlEq s.tick t.tick :=
  { h with schedule := congrArg List.tail h.schedule, stepCount := congrArg (· + 1) h.stepCount }

theorem ControlEq.hardwareReset (h : ControlEq s t) : ControlEq s.hardwareReset t.hardwareReset := by
  have hconfig : s.config = t.config := by rw [State.config, State.config, h.nDp, h.roms]
  unfold State.hardwareReset
  rw [hconfig]
  have hlanes := List.forall₂_same.mpr fun l (_ : l ∈ (State.resetWith t.config).lanes) =>
    (⟨rfl, rfl, rfl, rfl, rfl⟩ : LaneControlEq l l)
  exact ⟨rfl, hlanes, rfl, rfl, rfl, rfl, rfl, h.hostActions, h.codes, h.schedule, h.stepCount⟩

theorem ControlEq.wordHeld_eq (h : ControlEq s t) (w : Word) : wordHeld w s = wordHeld w t := by
  unfold wordHeld
  rw [h.nDp]
  split
  · rw [waits, waits, h.fatal, controlEq_commandRel.released_eq h]
  · rfl

theorem ControlEq.enabled_eq (h : ControlEq s t) (a : Agent) : enabled a s = enabled a t := by
  cases a with
  | host => simp only [enabled, hostEnabled, h.hostActions, h.wordHeld_eq]
  | kse => simp only [enabled, kseNext, h.kbusy, h.kpc, h.nDp]
  | lane d =>
    rcases controlEq_commandRel.lane?_cases h d with ⟨hs, ht⟩ | ⟨l, m, hs, ht, hlm⟩
    · simp only [enabled, laneNext, hs, ht]
    · simp only [enabled, laneNext, hs, ht, hlm.dbusy, hlm.dpc, h.nDp]

theorem ControlEq.freePick_eq (h : ControlEq s t) : freePick s = freePick t := by
  simp only [freePick, State.agents, h.nDp, h.enabled_eq, h.stepCount]

theorem ControlEq.chooseAgent_eq (h : ControlEq s t) : chooseAgent s = chooseAgent t := by
  simp only [chooseAgent, h.schedule, h.enabled_eq, h.freePick_eq]

theorem ControlEq.issueWord (h : ControlEq s t) (w : Word) :
    SameAnswer ControlEq (Machine.issueWord w s) (Machine.issueWord w t) := by
  unfold Machine.issueWord
  rw [h.nDp]
  split
  · exact controlEq_commandRel.exec h (isCommand_of_decode ‹_›)
  · exact .next (controlEq_commandRel.answer _ h)

theorem ControlEq.hostStep (h : ControlEq s t) : SameAnswer ControlEq (Machine.hostStep s) (Machine.hostStep t) := by
  unfold Machine.hostStep
  rw [h.hostActions]
  split
  · exact .next h
  · exact .next (h.setHost _).hardwareReset
  · rw [h.wordHeld_eq]
    split
    · split
      · exact .next (h.setHost _).hardwareReset
      · exact .next h
    · exact (h.setHost _).issueWord _

theorem ControlEq.agentStep (h : ControlEq s t) (a : Agent) :
    SameAnswer ControlEq (Machine.agentStep a s) (Machine.agentStep a t) := by
  cases a with
  | host => exact h.hostStep
  | kse =>
    rw [agentStep_kse, agentStep_kse]
    exact .next h.kseTurn
  | lane d =>
    rw [agentStep_lane, agentStep_lane]
    exact .next { h with lanes := forall₂_modify h.lanes d.toNat fun l m hlm => hlm.turn _ _ _ _ }

theorem ControlEq.step (h : ControlEq s t) : SameAnswer ControlEq (Machine.step s) (Machine.step t) := by
  unfold Machine.step machineStep
  rw [h.chooseAgent_eq]
  split
  · exact h.tick.agentStep _
  · rw [State.unitBusy, State.unitBusy, h.kbusy, controlEq_commandRel.lanesIdle_eq h]
    split
    · exact .fault _
    · exact .next h

end

/-- Settles O59: the same agent steps in both states, and what it decides it reads from counts and flags. -/
theorem controlFlowIndependentOfData : Obligations.ControlFlowIndependentOfData := by
  intro s t s' h hstep
  have hsame := h.step
  rw [hstep] at hsame
  exact hsame.of_next

end Sys2Proof.Machine
end

section
/-! # Enabled steps of different agents commute (spec/20_memory.md R80 (d))

The engine and the lanes share nothing that one of them writes while the other runs: an engine that runs finds every
lane idle, and a lane's turn changes that lane alone. A word the host has accepted while a unit is busy changes nothing in
the core, or one lane (`LaneEffect`): every key-side command is held, and so are the commands that would read or start
a busy lane. -/

namespace Sys2Proof.Machine

/-- Either order of the two steps answers the same state. -/
def StepsCommute (s : State) (a b : Agent) : Prop :=
  ∃ u v t, agentStep a s = .next u ∧ agentStep b u = .next t ∧ agentStep b s = .next v ∧ agentStep a v = .next t

theorem StepsCommute.symm {s : State} {a b : Agent} (h : StepsCommute s a b) : StepsCommute s b a := by
  obtain ⟨u, v, t, ha, hab, hb, hba⟩ := h
  exact ⟨v, u, t, hb, hba, ha, hab⟩

/-! ## Two units -/

theorem updateLane_comm (s : State) {d e : LaneNo} (h : d ≠ e) (f g : Lane → Lane) :
    (s.updateLane d f).updateLane e g = (s.updateLane e g).updateLane d f := by
  have hne : d.toNat ≠ e.toNat := fun hh => h (BitVec.eq_of_toNat_eq hh)
  have hlanes : (s.lanes.modify d.toNat f).modify e.toNat g = (s.lanes.modify e.toNat g).modify d.toNat f := by
    apply List.ext_getElem?
    intro j
    by_cases hj : j = d.toNat
    · simp [hj, hne.symm]
    · simp [List.getElem?_modify, Ne.symm hj]
  rw [State.updateLane, State.updateLane_lanes, hlanes]
  rfl

theorem setLane_updateLane_ne (s : State) {d e : LaneNo} (h : d ≠ e) (f : Lane → Lane) (l : Lane) :
    (s.setLane e l).updateLane d f = (s.updateLane d f).setLane e l := by
  have hne : d.toNat ≠ e.toNat := fun hh => h (BitVec.eq_of_toNat_eq hh)
  have hlanes : (s.lanes.set e.toNat l).modify d.toNat f = (s.lanes.modify d.toNat f).set e.toNat l := by
    apply List.ext_getElem?
    intro j
    by_cases hj : d.toNat = j
    · simp [hj, hj ▸ hne.symm]
    · simp [List.getElem?_set, hj]
  rw [State.updateLane, State.setLane_lanes, hlanes]
  rfl

theorem setLane_updateLane_self (s : State) (d : LaneNo) (f : Lane → Lane) (l : Lane) :
    (s.setLane d l).updateLane d f = (s.updateLane d f).setLane d (f l) := by
  have hlanes : (s.lanes.set d.toNat l).modify d.toNat f = (s.lanes.modify d.toNat f).set d.toNat (f l) := by
    apply List.ext_getElem?
    intro j
    by_cases hj : d.toNat = j
    · simp [List.getElem?_set, hj]
    · simp [hj]
  rw [State.updateLane, State.setLane_lanes, hlanes]
  rfl

theorem stepsCommute_lane_lane (s : State) {d e : LaneNo} (h : d ≠ e) : StepsCommute s (.lane d) (.lane e) := by
  refine ⟨_, _, _, agentStep_lane s d, agentStep_lane _ e, agentStep_lane s e, ?_⟩
  rw [agentStep_lane, updateLane_comm s h]
  rfl

/-- The engine and a lane are never enabled together (R51 (d)). -/
theorem State.Inv.not_enabled_kse_and_lane {s : State} (h : s.Inv) {d : LaneNo} (hk : enabled .kse s = true) :
    enabled (.lane d) s = false := by
  obtain ⟨hb, -⟩ := (kseNext_isSome_iff s).mp hk
  by_contra hl
  obtain ⟨l, hl, hdb, -⟩ := (laneNext_isSome_iff s d).mp (Bool.eq_true_of_not_eq_false hl)
  rw [h.exclusive hb l (mem_of_lane? hl)] at hdb
  cases hdb

/-! ## What an accepted word does while a unit is busy -/

/-- What a command does to lane `e` and answers, where it is neither held nor ended by FATAL. -/
inductive LaneEffect (e : LaneNo) : Instr → Lane → Lane → Word → Prop
  | dinclr (l : Lane) : LaneEffect e (.dinclr e) l l.clearIn (responseWord .ok 0#24)
  | dinpush (b : Byte) (l : Lane) : LaneEffect e (.dinpush e b) l (l.push b) (responseWord .ok 0#24)
  | blklen {l : Lane} : l.dbusy = false → l.dincnt ≠ 16#5 →
      LaneEffect e (.encrypt e) l l (responseWord .eBlklen (l.dincnt.zeroExtend 24))
  | encrypt {l : Lane} : l.dbusy = false → l.dincnt = 16#5 →
      LaneEffect e (.encrypt e) l l.start (responseWord .ok 0#24)
  | nodata {l : Lane} : l.dbusy = false → l.doutvalid = false →
      LaneEffect e (.doutpop e) l l (responseWord .eNodata 0#24)
  | doutpop {l : Lane} {v : Byte} : l.dbusy = false → l.doutvalid = true → l.dout[l.doutrd.toNat]? = some v →
      LaneEffect e (.doutpop e) l l.pop (responseWord .ok (v.zeroExtend 24))

/-- A lane's turn neither reads nor writes its input buffer. -/
theorem Lane.turn_withInput (r : Roms) (w : Schedule) (l : Lane) (din : Block) (cnt : BitVec 5) :
    Lane.turn r w { l with din := din, dincnt := cnt } = { l.turn r w with din := din, dincnt := cnt } := by
  simp only [Lane.turn, Lane.micro]
  split_ifs <;> rfl

section
variable {s : State} {e : LaneNo} {i : Instr} {l l' : Lane} {rsp : Word}

theorem LaneEffect.exec (h : LaneEffect e i l l' rsp) (hl : s.lane? e = some l) (hf : s.fatal = false)
    (hk : ∀ d, i = .encrypt d → s.kbusy = false ∧ s.kvalid = true) :
    exec i s = .next ((s.setLane e l').answer rsp) := by
  cases h with
  | dinclr => exact exec_dinclr_of_lane hl hf
  | dinpush b => exact exec_dinpush_of_lane b hl hf
  | blklen hb hc =>
    obtain ⟨hkb, hkv⟩ := hk e rfl
    rw [exec_encrypt_of_wrong_length hl hf hkb hb hkv hc, setLane_of_lane? hl]
  | encrypt hb hc =>
    obtain ⟨hkb, hkv⟩ := hk e rfl
    exact exec_encrypt_of_ready hl hf hkb hb hkv hc
  | nodata hb hv =>
    rw [exec_doutpop_of_lane hl hf, hb, hv, setLane_of_lane? hl]
    rfl
  | doutpop hb hv hd => exact exec_doutpop_of_ready hl hf hb hv hd

theorem LaneEffect.released (h : LaneEffect e i l l' rsp) (hl : s.lane? e = some l)
    (hk : ∀ d, i = .encrypt d → s.kbusy = false ∧ s.kvalid = true) : released i s = true := by
  cases h with
  | dinclr => rfl
  | dinpush => rfl
  | blklen hb => rw [released_encrypt hl, hb, (hk e rfl).1]; rfl
  | encrypt hb => rw [released_encrypt hl, hb, (hk e rfl).1]; rfl
  | nodata hb => rw [released_doutpop hl, hb]; rfl
  | doutpop hb => rw [released_doutpop hl, hb]; rfl

/-- The host's turn with such a command. -/
theorem LaneEffect.hostStep (h : LaneEffect e i l l' rsp) {w : Word} {acts : List HostAction}
    (ha : s.hostActions = .command w :: acts) (hd : decode s.nDp (.command w) = .instr i) (hl : s.lane? e = some l)
    (hf : s.fatal = false) (hk : ∀ d, i = .encrypt d → s.kbusy = false ∧ s.kvalid = true) :
    hostStep s = .next (((s.setHost acts).setLane e l').answer rsp) := by
  rw [hostStep_of_instr ha hd (by rw [waits, h.released hl hk, Bool.not_true, Bool.and_false])]
  exact h.exec (s := s.setHost acts) hl hf hk

/-- A busy lane takes only the commands on its input buffer, and those commute with its turn. -/
theorem LaneEffect.turn (h : LaneEffect e i l l' rsp) (hb : l.dbusy = true) (r : Roms) (w : Schedule) :
    LaneEffect e i (l.turn r w) (l'.turn r w) rsp := by
  cases h with
  | dinclr =>
    have heq := LaneEffect.dinclr (e := e) (l.turn r w)
    rwa [Lane.clearIn, ← Lane.turn_withInput] at heq
  | dinpush b =>
    have heq := LaneEffect.dinpush (e := e) b (l.turn r w)
    rwa [Lane.push, ← Lane.turn_withInput, Lane.turn_din, Lane.turn_dincnt] at heq
  | blklen hidle => simp [hb] at hidle
  | encrypt hidle => simp [hb] at hidle
  | nodata hidle => simp [hb] at hidle
  | doutpop hidle => simp [hb] at hidle

end

/-- A word that is answered and changes nothing in the core: no command, or NOP. -/
inductive PlainWord (nDp : Nat) (w : Word) : Word → Prop
  | illegal {why : DecodeError} : decode nDp (.command w) = .illegal why → PlainWord nDp w (responseWord .eIllegal 0#24)
  | nop : decode nDp (.command w) = .instr .nop → PlainWord nDp w (responseWord .ok 0#24)

theorem PlainWord.hostStep {s : State} {w rsp : Word} {acts : List HostAction} (h : PlainWord s.nDp w rsp)
    (ha : s.hostActions = .command w :: acts) : hostStep s = .next ((s.setHost acts).answer rsp) := by
  cases h with
  | illegal hd => exact hostStep_of_illegal ha hd
  | nop hd =>
    rw [hostStep_of_instr ha hd (by rw [waits, released, Bool.not_true, Bool.and_false])]
    rfl

/-- What the word does that the host has accepted while a unit is busy, but for the two status commands. -/
theorem State.Inv.accepted_of_unitBusy {s : State} (h : s.Inv) (hbusy : s.unitBusy = true) (hf : s.fatal = false)
    {w : Word} (hw : wordHeld w s = false) (hkstat : decode s.nDp (.command w) ≠ .instr .kstat)
    (hdstat : ∀ d, decode s.nDp (.command w) ≠ .instr (.dstat d)) :
    (∃ rsp, PlainWord s.nDp w rsp) ∨ ∃ e i l l' rsp, decode s.nDp (.command w) = .instr i ∧ released i s = true ∧
      s.lane? e = some l ∧ LaneEffect e i l l' rsp := by
  cases hd : decode s.nDp (.command w) with
  | illegal why => exact .inl ⟨_, .illegal hd⟩
  | instr i =>
    have hr : released i s = true := by
      rw [wordHeld_of_instr hd, waits, hf] at hw
      simpa using hw
    have hnot := keySide_held_of_unitBusy hbusy
    have hlegal := (encodeOfDecode s.nDp _ i hd).2
    have hcommand := isCommand_of_decode hd
    have hlane {d : LaneNo} (hd : laneLegal s.nDp d = true) : ∃ l, s.lane? d = some l := by
      cases hl : s.lane? d with
      | some l => exact ⟨l, rfl⟩
      | none => rw [laneLegal_of_none hl] at hd; cases hd
    cases i with
    | nop => exact .inl ⟨_, .nop hd⟩
    | kstat => exact absurd hd hkstat
    | dstat d => exact absurd hd (hdstat d)
    | keyclr => exact absurd hr hnot
    | keypush => exact absurd hr hnot
    | expand => exact absurd hr hnot
    | dinclr d =>
      obtain ⟨l, hl⟩ := hlane hlegal
      exact .inr ⟨d, _, l, _, _, rfl, hr, hl, .dinclr l⟩
    | dinpush d b =>
      obtain ⟨l, hl⟩ := hlane hlegal
      exact .inr ⟨d, _, l, _, _, rfl, hr, hl, .dinpush b l⟩
    | encrypt d =>
      obtain ⟨l, hl⟩ := hlane hlegal
      obtain ⟨-, hb⟩ : s.kbusy = false ∧ l.dbusy = false := by simpa [released_encrypt hl] using hr
      by_cases hc : l.dincnt = 16#5
      · exact .inr ⟨d, _, l, _, _, rfl, hr, hl, .encrypt hb hc⟩
      · exact .inr ⟨d, _, l, _, _, rfl, hr, hl, .blklen hb hc⟩
    | doutpop d =>
      obtain ⟨l, hl⟩ := hlane hlegal
      have hb : l.dbusy = false := by simpa [released_doutpop hl] using hr
      cases hv : l.doutvalid with
      | false => exact .inr ⟨d, _, l, _, _, rfl, hr, hl, .nodata hb hv⟩
      | true =>
        have hrd := (h.lane l (mem_of_lane? hl)).rd.2
        exact .inr ⟨d, _, l, _, _, rfl, hr, hl, .doutpop hb hv (Vector.getElem?_eq_getElem (by omega))⟩
    | kld _ => cases hcommand
    | krot _ => cases hcommand
    | ksub _ => cases hcommand
    | krc _ => cases hcommand
    | kst _ => cases hcommand
    | sb _ _ => cases hcommand
    | sr _ _ => cases hcommand
    | mc _ _ => cases hcommand
    | ark _ _ => cases hcommand

/-! ## The host and a unit -/

/-- The engine's turn neither reads nor writes the lanes and the host's side. -/
theorem State.kseTurn_withLanes (s : State) (lanes : List Lane) (acts : List HostAction) (rs : List Word) :
    State.kseTurn { s with lanes := lanes, hostActions := acts, responses := rs } =
      { s.kseTurn with lanes := lanes, hostActions := acts, responses := rs } := by
  simp only [State.kseTurn, State.kseMicro]
  split_ifs <;> rfl

theorem State.kseTurn_answer (s : State) (acts : List HostAction) (rsp : Word) :
    ((s.setHost acts).answer rsp).kseTurn = (s.kseTurn.setHost acts).answer rsp := by
  rw [State.answer, State.answer, State.setHost, State.setHost, State.kseTurn_responses, State.kseTurn_lanes]
  exact s.kseTurn_withLanes s.lanes acts (s.responses ++ [rsp])

theorem State.kseTurn_setLane_answer (s : State) (acts : List HostAction) (d : LaneNo) (l : Lane) (rsp : Word) :
    (((s.setHost acts).setLane d l).answer rsp).kseTurn = ((s.kseTurn.setHost acts).setLane d l).answer rsp := by
  rw [State.answer, State.answer, State.setLane, State.setLane, State.setHost, State.setHost, State.kseTurn_responses,
    State.kseTurn_lanes]
  exact s.kseTurn_withLanes (s.lanes.set d.toNat l) acts (s.responses ++ [rsp])

section
variable {s : State} {w : Word} {acts : List HostAction}

/-- The two ways round, where the host's turn after the unit's answers what the unit's turn makes of `u`. -/
theorem stepsCommute_of_hostStep {u v : State} {a : Agent} {f : State → State} (ha : ∀ x, agentStep a x = .next (f x))
    (hs : hostStep s = .next u) (hfs : hostStep (f s) = .next v) (huv : f u = v) : StepsCommute s .host a :=
  ⟨u, f s, v, hs, huv ▸ ha u, ha s, hfs⟩

theorem stepsCommute_host_kse_of_plain {rsp : Word} (hplain : PlainWord s.nDp w rsp)
    (ha : s.hostActions = .command w :: acts) : StepsCommute s .host .kse := by
  refine stepsCommute_of_hostStep agentStep_kse (hplain.hostStep ha)
    (PlainWord.hostStep (rsp := rsp) (by rwa [State.kseTurn_nDp]) (by rw [State.kseTurn_hostActions, ha])) ?_
  exact s.kseTurn_answer acts rsp

theorem stepsCommute_host_lane_of_plain {rsp : Word} (hplain : PlainWord s.nDp w rsp)
    (ha : s.hostActions = .command w :: acts) (d : LaneNo) : StepsCommute s .host (.lane d) :=
  stepsCommute_of_hostStep (f := fun s => s.updateLane d (Lane.turn s.roms s.w)) (agentStep_lane · d)
    (hplain.hostStep ha) (PlainWord.hostStep (by rwa [State.updateLane_nDp]) ha) rfl

variable {e : LaneNo} {i : Instr} {l l' : Lane} {rsp : Word}

/-- The engine runs: the command is not ENCRYPT, which is held. -/
theorem stepsCommute_host_kse_of_laneEffect (heffect : LaneEffect e i l l' rsp)
    (ha : s.hostActions = .command w :: acts) (hd : decode s.nDp (.command w) = .instr i) (hl : s.lane? e = some l)
    (hr : released i s = true) (hf : s.fatal = false) (hb : s.kbusy = true) : StepsCommute s .host .kse := by
  have hnot : ∀ d, i ≠ .encrypt d := by
    rintro d rfl
    simp [released, hb] at hr
  refine stepsCommute_of_hostStep agentStep_kse
    (heffect.hostStep ha hd hl hf fun d hi => absurd hi (hnot d))
    (heffect.hostStep (by rw [State.kseTurn_hostActions, ha]) (by rw [State.kseTurn_nDp, hd])
      (by rw [State.lane?, State.kseTurn_lanes]; exact hl) (by rw [State.kseTurn_fatal, hf])
      fun d hi => absurd hi (hnot d)) ?_
  exact s.kseTurn_setLane_answer acts e l' rsp

/-- A lane runs: the command is on another lane, or on the running lane's input buffer. -/
theorem stepsCommute_host_lane_of_laneEffect (heffect : LaneEffect e i l l' rsp)
    (ha : s.hostActions = .command w :: acts) (hd : decode s.nDp (.command w) = .instr i) (hl : s.lane? e = some l)
    (hf : s.fatal = false) (hk : s.kbusy = false) (hv : s.kvalid = true) {d : LaneNo} {m : Lane}
    (hm : s.lane? d = some m) (hb : m.dbusy = true) : StepsCommute s .host (.lane d) := by
  have hfirst := heffect.hostStep ha hd hl hf fun _ _ => ⟨hk, hv⟩
  have hd' : decode (s.updateLane d (Lane.turn s.roms s.w)).nDp (.command w) = .instr i := by
    rw [State.updateLane_nDp, hd]
  by_cases hde : d = e
  · subst hde
    obtain rfl : l = m := Option.some_inj.mp (hl.symm.trans hm)
    refine stepsCommute_of_hostStep (f := fun s => s.updateLane d (Lane.turn s.roms s.w)) (agentStep_lane · d) hfirst
      ((heffect.turn hb s.roms s.w).hostStep ha hd' (by rw [lane?_updateLane_self, hl]; rfl) hf fun _ _ => ⟨hk, hv⟩) ?_
    exact congrArg (State.answer · rsp) (setLane_updateLane_self (s.setHost acts) d _ l')
  · refine stepsCommute_of_hostStep (f := fun s => s.updateLane d (Lane.turn s.roms s.w)) (agentStep_lane · d) hfirst
      (heffect.hostStep ha hd' (by rw [lane?_updateLane_ne _ _ hde, hl]) hf fun _ _ => ⟨hk, hv⟩) ?_
    exact congrArg (State.answer · rsp) (setLane_updateLane_ne (s.setHost acts) hde _ l')

end

/-- The host's step and an enabled unit's, the host's word accepted and no status command. -/
theorem State.Inv.stepsCommute_host {s : State} (h : s.Inv) {a : Agent} (hne : a ≠ .host) (ha : enabled a s = true)
    (hacts : ∃ w acts, s.hostActions = .command w :: acts ∧ wordHeld w s = false ∧
      decode s.nDp (.command w) ≠ .instr .kstat ∧ ∀ d, decode s.nDp (.command w) ≠ .instr (.dstat d)) :
    StepsCommute s .host a := by
  obtain ⟨w, acts, hacts, hw, hkstat, hdstat⟩ := hacts
  cases a with
  | host => exact absurd rfl hne
  | kse =>
    obtain ⟨hb, -⟩ := (kseNext_isSome_iff s).mp ha
    have hf := h.fatal_eq_false_of_kbusy hb
    rcases h.accepted_of_unitBusy (State.unitBusy_of_kbusy hb) hf hw hkstat hdstat with
      ⟨rsp, hplain⟩ | ⟨e, i, l, l', rsp, hd, hr, hl, heffect⟩
    · exact stepsCommute_host_kse_of_plain hplain hacts
    · exact stepsCommute_host_kse_of_laneEffect heffect hacts hd hl hr hf hb
  | lane d =>
    obtain ⟨m, hm, hb, -⟩ := (laneNext_isSome_iff s d).mp ha
    obtain ⟨hbusy, hv, hk⟩ := h.unitBusy_of_lane (mem_of_lane? hm) hb
    have hf := h.fatal_eq_false_of_dbusy (mem_of_lane? hm) hb
    rcases h.accepted_of_unitBusy hbusy hf hw hkstat hdstat with
      ⟨rsp, hplain⟩ | ⟨e, i, l, l', rsp, hd, -, hl, heffect⟩
    · exact stepsCommute_host_lane_of_plain hplain hacts d
    · exact stepsCommute_host_lane_of_laneEffect heffect hacts hd hl hf hk hv hm hb

/-- Settles O58: two lanes, the host and a unit, and no engine together with a lane. -/
theorem stepsOfDifferentAgentsCommute : Obligations.StepsOfDifferentAgentsCommute := by
  intro s a b h hab ha hb hacts
  change StepsCommute s a b
  cases a with
  | host => exact h.stepsCommute_host hab.symm hb (hacts (.inl rfl))
  | kse =>
    cases b with
    | host => exact (h.stepsCommute_host hab ha (hacts (.inr rfl))).symm
    | kse => exact absurd rfl hab
    | lane d => exact absurd hb (by rw [h.not_enabled_kse_and_lane ha]; exact Bool.false_ne_true)
  | lane d =>
    cases b with
    | host => exact (h.stepsCommute_host hab ha (hacts (.inr rfl))).symm
    | kse => exact absurd ha (by rw [h.not_enabled_kse_and_lane hb]; exact Bool.false_ne_true)
    | lane e => exact stepsCommute_lane_lane s fun hde => hab (congrArg Agent.lane hde)

end Sys2Proof.Machine
end
